-- ==== Sys2Proof/Word.lean ====
section
/-! DEFINITION. The register word (00_scope.md R8, R9). Channel indices are `Fin 5` (R1, R8: `N_CHANNELS` is 5). Times
and durations are `Int` nanoseconds: the spec's type is a signed 64-bit count, and R105 and D19 let a model use
unbounded integers, which agree with it under the environment's guarantee (log entry 12). -/

namespace Sys2Proof

/-- A 32-bit register value, data word or selector (00_scope.md R8, R9). -/
abbrev Word := BitVec 32

end Sys2Proof
end

