-- ==== Sys2Proof/Config.lean ====
section
/-! DEFINITION. What an implementation fixes and the spec leaves OPEN (00_scope.md R8), and the free values. -/

namespace Sys2Proof

/-- The reference frequencies the spec admits: `120 <= REF_HZ <= 1000000000`, which is
`1 <= NS_PER_TICK <= 8388608` (40_primitives.md R100, decision D7). -/
abbrev RefHz := { hz : Nat // 120 ≤ hz ∧ hz ≤ 1000000000 }

/-- The region sizes the spec admits: a multiple of 4, at least `0x54` (00_scope.md R8, decision D8).
The upper bound is the reach of the 30-bit offset field of the selector (R71); log entry 7, DESIGN CHOICE. -/
abbrev RegionSize := { bytes : Nat // bytes % 4 = 0 ∧ 0x54 ≤ bytes ∧ bytes ≤ 2 ^ 30 }

/-- The configuration of one instance of the block (R8, R35): fixed at construction, changed by no operation. -/
structure Config where
  /-- `REF_HZ`, the reference frequency in hertz. -/
  refHz : RefHz
  /-- `REGION_SIZE`, the size in bytes of the decoded offset space. -/
  regionSize : RegionSize
deriving DecidableEq, Repr

/-- `NS_PER_TICK = 1000000000 // REF_HZ` (R8, R100). -/
def Config.nsPerTick (c : Config) : Nat := 1000000000 / c.refHz.val

/-- FREE VALUE (R8, D7: `REF_HZ` is OPEN): how far the platform's reference frequency lies above 120 Hz. -/
opaque Config.Platform.refHzAbove : Fin 999999881

/-- FREE VALUE (R8, D8: `REGION_SIZE` is OPEN): how many words the region has beyond offset `0x53`. -/
opaque Config.Platform.regionExtraWords : Fin 268435436

/-- The platform's configuration, made of the two free values; every value the spec admits is one of these. -/
def Config.platform : Config where
  refHz := ⟨Config.Platform.refHzAbove.val + 120, by omega⟩
  regionSize := ⟨4 * Config.Platform.regionExtraWords.val + 0x54, by omega⟩

/-- What a bus master may receive for an access the core never sees. DESIGN CHOICE (log entry 33): the spec leaves the
form of `BUS_REJECT_RESPONSE` open (D6, N17); the model admits these three and assumes none of them. -/
inductive BusResponse where
  /-- data of some width in bits -/
  | data (bits : Nat) (v : BitVec bits)
  /-- an error -/
  | busError
  /-- nothing -/
  | noAnswer
deriving DecidableEq, Repr, Inhabited

/-- FREE VALUE (D6: `BUS_REJECT_RESPONSE` is OPEN): what the bus master gets back for an access the core never sees, from
the direction (true for a write), the offset, the width in bytes and the access's serial number, so that two like
accesses may be answered differently. DESIGN CHOICE: that form (log entry 33). -/
opaque Config.busRejectResponse : Bool → Nat → Nat → Nat → BusResponse

/-- FREE VALUE (91_not_in_source.md N9): the count of a negative number of nanoseconds, from the tick and the divisor.
The spec states no result there, and no reachable state asks for it (R102, R127); log entry 11. -/
opaque Config.countOfNegative : Nat → Int → Nat → Word

end Sys2Proof
end

