-- ==== Sys2Proof/Syntax.lean ====
section
/-! DEFINITION. The operations of the block (30_encoding.md R70, R78, R79): one constructor per row of
spec/opcode_table.json, and the record that SNAPSHOT answers and RESTORE loads (45_host_operations.md R183). -/

namespace Sys2Proof

/-- The part of a snapshot record that belongs to one channel, in the order of R183. -/
structure ChannelRecord where
  /-- the scheduled-callback state -/
  armed : Bool
  /-- `deadline_ns`, int64 -/
  deadlineNs : Int
  /-- `remaining_ns`, int64 -/
  remainingNs : Int
  /-- `control`, uint32 -/
  control : Word
  /-- `reload`, uint32 -/
  reload : Word
deriving DecidableEq, Repr

/-- A snapshot record (R182, R183): the five channels, `interrupt_status` and `watchdog_control`.
The lines, `now` and the diagnostics are not in it. -/
structure Snapshot where
  ch : Vector ChannelRecord 5
  /-- `interrupt_status`, uint32: holds `tisr` -/
  interruptStatus : Word
  /-- `watchdog_control`, uint32: holds `wtcr` -/
  watchdogControl : Word
deriving DecidableEq, Repr

/-- The registers of the register map (R70): per-channel TCSR, TICR, TDR, and the shared TISR and WTCR. -/
inductive Reg where
  | tcsr (i : Fin 5)
  | ticr (i : Fin 5)
  | tdr (i : Fin 5)
  | tisr
  | wtcr
deriving DecidableEq, Repr

/-- The byte offset of each register (R70). -/
def Reg.offset : Reg → Nat
  | .tcsr 0 => 0x00
  | .tcsr 1 => 0x04
  | .tcsr 2 => 0x20
  | .tcsr 3 => 0x24
  | .tcsr 4 => 0x40
  | .ticr 0 => 0x08
  | .ticr 1 => 0x0C
  | .ticr 2 => 0x28
  | .ticr 3 => 0x2C
  | .ticr 4 => 0x48
  | .tdr 0 => 0x10
  | .tdr 1 => 0x14
  | .tdr 2 => 0x30
  | .tdr 3 => 0x34
  | .tdr 4 => 0x50
  | .tisr => 0x18
  | .wtcr => 0x1C

/-- The 17 registers of R70. -/
def Reg.all : List Reg :=
  [.tcsr 0, .tcsr 1, .tcsr 2, .tcsr 3, .tcsr 4, .ticr 0, .ticr 1, .ticr 2, .ticr 3, .ticr 4,
   .tdr 0, .tdr 1, .tdr 2, .tdr 3, .tdr 4, .tisr, .wtcr]

/-- The operations of the block (R79), one constructor per row of spec/opcode_table.json. -/
inductive Instr where
  /-- `RD TCSR0` (R140) -/
  | rdTcsr0
  /-- `WR TCSR0, v` (R141) -/
  | wrTcsr0 (v : Word)
  /-- `RD TCSR1` (R140) -/
  | rdTcsr1
  /-- `WR TCSR1, v` (R141) -/
  | wrTcsr1 (v : Word)
  /-- `RD TICR0` (R150) -/
  | rdTicr0
  /-- `WR TICR0, v` (R151) -/
  | wrTicr0 (v : Word)
  /-- `RD TICR1` (R150) -/
  | rdTicr1
  /-- `WR TICR1, v` (R151) -/
  | wrTicr1 (v : Word)
  /-- `RD TDR0` (R153) -/
  | rdTdr0
  /-- `WR TDR0, v` (R155) -/
  | wrTdr0 (v : Word)
  /-- `RD TDR1` (R153) -/
  | rdTdr1
  /-- `WR TDR1, v` (R155) -/
  | wrTdr1 (v : Word)
  /-- `RD TISR` (R160) -/
  | rdTisr
  /-- `WR TISR, v` (R161) -/
  | wrTisr (v : Word)
  /-- `RD WTCR` (R163) -/
  | rdWtcr
  /-- `WR WTCR, v` (R164) -/
  | wrWtcr (v : Word)
  /-- `RD TCSR2` (R140) -/
  | rdTcsr2
  /-- `WR TCSR2, v` (R141) -/
  | wrTcsr2 (v : Word)
  /-- `RD TCSR3` (R140) -/
  | rdTcsr3
  /-- `WR TCSR3, v` (R141) -/
  | wrTcsr3 (v : Word)
  /-- `RD TICR2` (R150) -/
  | rdTicr2
  /-- `WR TICR2, v` (R151) -/
  | wrTicr2 (v : Word)
  /-- `RD TICR3` (R150) -/
  | rdTicr3
  /-- `WR TICR3, v` (R151) -/
  | wrTicr3 (v : Word)
  /-- `RD TDR2` (R153) -/
  | rdTdr2
  /-- `WR TDR2, v` (R155) -/
  | wrTdr2 (v : Word)
  /-- `RD TDR3` (R153) -/
  | rdTdr3
  /-- `WR TDR3, v` (R155) -/
  | wrTdr3 (v : Word)
  /-- `RD TCSR4` (R140) -/
  | rdTcsr4
  /-- `WR TCSR4, v` (R141) -/
  | wrTcsr4 (v : Word)
  /-- `RD TICR4` (R150) -/
  | rdTicr4
  /-- `WR TICR4, v` (R151) -/
  | wrTicr4 (v : Word)
  /-- `RD TDR4` (R153) -/
  | rdTdr4
  /-- `WR TDR4, v` (R155) -/
  | wrTdr4 (v : Word)
  /-- `RD UNKNOWN off` (R165) -/
  | rdUnknown (off : BitVec 30)
  /-- `WR UNKNOWN off, v` (R166) -/
  | wrUnknown (off : BitVec 30) (v : Word)
  /-- `CONFIGURE` (R180) -/
  | configure
  /-- `RESET` (R250) -/
  | reset
  /-- `SNAPSHOT` (R182) -/
  | snapshot
  /-- `RESTORE snap` (R184) -/
  | restore (snap : Snapshot)
  /-- `ADVANCE d` (R125) -/
  | advance (d : Nat)
  /-- `EXPIRE 0` (R122) -/
  | expire0
  /-- `EXPIRE 1` (R122) -/
  | expire1
  /-- `EXPIRE 2` (R122) -/
  | expire2
  /-- `EXPIRE 3` (R122) -/
  | expire3
  /-- `EXPIRE 4` (R122) -/
  | expire4
deriving DecidableEq, Repr

/-- The read of a register (R72: the row that a read of the register's offset is). -/
def Instr.rd : Reg → Instr
  | .tcsr 0 => .rdTcsr0
  | .tcsr 1 => .rdTcsr1
  | .tcsr 2 => .rdTcsr2
  | .tcsr 3 => .rdTcsr3
  | .tcsr 4 => .rdTcsr4
  | .ticr 0 => .rdTicr0
  | .ticr 1 => .rdTicr1
  | .ticr 2 => .rdTicr2
  | .ticr 3 => .rdTicr3
  | .ticr 4 => .rdTicr4
  | .tdr 0 => .rdTdr0
  | .tdr 1 => .rdTdr1
  | .tdr 2 => .rdTdr2
  | .tdr 3 => .rdTdr3
  | .tdr 4 => .rdTdr4
  | .tisr => .rdTisr
  | .wtcr => .rdWtcr

/-- The write of a register (R72). -/
def Instr.wr (r : Reg) (v : Word) : Instr :=
  match r with
  | .tcsr 0 => .wrTcsr0 v
  | .tcsr 1 => .wrTcsr1 v
  | .tcsr 2 => .wrTcsr2 v
  | .tcsr 3 => .wrTcsr3 v
  | .tcsr 4 => .wrTcsr4 v
  | .ticr 0 => .wrTicr0 v
  | .ticr 1 => .wrTicr1 v
  | .ticr 2 => .wrTicr2 v
  | .ticr 3 => .wrTicr3 v
  | .ticr 4 => .wrTicr4 v
  | .tdr 0 => .wrTdr0 v
  | .tdr 1 => .wrTdr1 v
  | .tdr 2 => .wrTdr2 v
  | .tdr 3 => .wrTdr3 v
  | .tdr 4 => .wrTdr4 v
  | .tisr => .wrTisr v
  | .wtcr => .wrWtcr v

/-- The expiration of channel `i` (R78: event 8 + i). -/
def Instr.expire : Fin 5 → Instr
  | 0 => .expire0
  | 1 => .expire1
  | 2 => .expire2
  | 3 => .expire3
  | 4 => .expire4

end Sys2Proof
end

