-- ==== Sys2Proof/Machine/State.lean ====
section
/-! DEFINITION. The state of the block (10_state.md R20), the stops, and the state after reset (R40).
The block has no memory of its own (R41), no program counter and no modes (R24, R215). -/

namespace Sys2Proof.Machine

/-- One channel (R20): its control and reload registers, its timing state, its pending callback and its line. -/
structure Channel where
  /-- `ch[i].control`, register TCSRi (R21, R28) -/
  control : Word
  /-- `ch[i].reload`, register TICRi (R22) -/
  reload : Word
  /-- `ch[i].remaining_ns` (R29) -/
  remainingNs : Int
  /-- `ch[i].deadline_ns` (R30) -/
  deadlineNs : Int
  /-- `ch[i].armed`: a callback is pending for `deadline_ns` (R31) -/
  armed : Bool
  /-- `irq[i]`: the level driven on the channel's line, true is asserted (R32) -/
  irq : Bool
deriving DecidableEq, Repr

/-- A channel right after RESET (R40). -/
def Channel.reset : Channel where
  control := 0x00000005
  reload := 0
  remainingNs := 0
  deadlineNs := 0
  armed := false
  irq := false

/-- The anomalies of 60_exceptions.md R201, by cause id. -/
inductive Cause where
  /-- `A1_RESERVED_BITS`: `WR TCSRi, v` with a reserved bit set -/
  | reservedBits
  /-- `A2_READONLY_BIT`: `WR TCSRi, v` with bit 25 set -/
  | readonlyBit
  /-- `A3_READONLY_REGISTER`: `WR TDRi, v` -/
  | readonlyRegister
  /-- `A4_UNKNOWN_OFFSET_READ`: `RD UNKNOWN off` -/
  | unknownOffsetRead
  /-- `A5_UNKNOWN_OFFSET_WRITE`: `WR UNKNOWN off, v` -/
  | unknownOffsetWrite
  /-- `A6_UNIMPLEMENTED`: `WR WTCR, v` -/
  | unimplemented
  /-- `A7_INTERNAL_INVARIANT`: the fatal assertion of `pause`; reported as a fault, never as a logged diagnostic -/
  | internalInvariant
deriving DecidableEq, Repr

/-- The classes of R201. -/
inductive DiagClass where
  | guestError
  | unimplemented
  | fatal
deriving DecidableEq, Repr

/-- What an operation answers to the agent that performed it. -/
inductive Answer where
  /-- the 32-bit word a bus read returns (R71) -/
  | data (v : Word)
  /-- the record SNAPSHOT returns (R182) -/
  | record (snap : Snapshot)
deriving DecidableEq, Repr

/-- The machine. The fields up to `now` are the spec's (R20); `cfg` is the configuration (R8, R35), changed by no
operation; the last three are the model's own. -/
structure State where
  /-- the five channels -/
  ch : Vector Channel 5
  /-- `tisr`, register TISR (R26) -/
  tisr : Word
  /-- `wtcr`, register WTCR (R27) -/
  wtcr : Word
  /-- the time base (R34) -/
  now : Int
  /-- the configuration of the instance (log entry 7) -/
  cfg : Config
  /-- MODEL: the requests the agents offer, first one first, each the words of one operation (log entry 1) -/
  inputs : List (List Word)
  /-- MODEL: the answer to the latest RD or SNAPSHOT (log entry 5) -/
  resp : Option Answer
  /-- MODEL: the diagnostics emitted, oldest first (R202; log entry 6) -/
  diags : List Cause
deriving DecidableEq, Repr

/-- The one fatal condition of the block (R206). -/
inductive Fault where
  /-- `raise InternalInvariantViolation(i)`: `pause` on channel `i` found a remainder that is not strictly positive
  (R107). Raised by `WR TCSRi, v` that takes CEN from 1 to 0. Safe: the spec ends the run there, and no reachable
  state raises it. -/
  | internalInvariantViolation (i : Fin 5)
deriving DecidableEq, Repr

/-- Why the model gives an offered operation no step. -/
inductive Refusal where
  /-- The instruction has no meaning yet. Raised by `exec`'s arms only; no arm does. Safe. -/
  | notModelled (mnemonic : String)
  /-- A bus operation, SNAPSHOT or ADVANCE while a channel is due: not enabled (R126). Raised by `exec`; `step`
  performs the owed expiration instead and never answers it. Safe. -/
  | channelDue
  /-- `EXPIRE i` while channel `i` is not due: not enabled (R122, R126). Safe. -/
  | notDue (i : Fin 5)
  /-- `ADVANCE d` that would step over an armed deadline: not enabled (R125, R126). Safe. -/
  | passesDeadline
  /-- `ADVANCE 0`: not an operation, `d > 0` (R125); no words encode it. Safe. -/
  | advanceByZero
  /-- An access at or beyond `REGION_SIZE`: never reaches the core (R57). Safe. -/
  | beyondRegion
  /-- A record that is not `valid` (R184: "refuse"; 93_implementation_defined.md U13). Safe. -/
  | invalidSnapshot
  /-- A bus access at an offset that is no multiple of 4: rejected at the region's boundary, not by the core; "A model
  refuses such an access" (R53). Raised by `step`. Safe. -/
  | rejectedAtBoundary
  /-- Words that are no operation of R79. Raised by `step`. Safe. -/
  | notAnOperation
deriving DecidableEq, Repr

/-- The machine right after reset (R40, R180): every register at the value the spec states. `now` is the free input of
R34, here 0 (log entry 8); the configuration is the platform's (log entry 7); nothing is offered, answered or logged. -/
def State.reset : State where
  ch := #v[Channel.reset, Channel.reset, Channel.reset, Channel.reset, Channel.reset]
  tisr := 0
  wtcr := 0x00000400
  now := 0
  cfg := Config.platform
  inputs := []
  resp := none
  diags := []

end Sys2Proof.Machine
end

