-- ==== Sys2Proof/Machine/Flags.lean ====
section
/-! DEFINITION. The control register's bits (00_scope.md R11, 10_state.md R28), the interrupt latches (R26) and the
level of a line (R104). -/

namespace Sys2Proof.Machine

/-- `CEN`, count-enable, bit 30 (R11). -/
def maskCEN : Word := 0x40000000
/-- `IE`, interrupt-enable, bit 29 (R11). -/
def maskIE : Word := 0x20000000
/-- `PERIODIC`, periodic-mode, bit 27 (R11). -/
def maskPERIODIC : Word := 0x08000000
/-- `CRST`, reset-request, bit 26 (R11). -/
def maskCRST : Word := 0x04000000
/-- `CACT`, count-active, bit 25 (R11). -/
def maskCACT : Word := 0x02000000
/-- `RSVD`, the reserved bits 24 and 23:8, as corrected by 90_conflicts.md C1 (R11). -/
def maskRSVD : Word := 0x01FFFF00

/-- `(w & mask) != 0`, the test the spec's pseudocode makes of a field. -/
def anySet (w mask : Word) : Bool := w &&& mask != 0

/-- `running(i)`: count-enable is set (R25). -/
def running (control : Word) : Bool := anySet control maskCEN

/-- `BIT(i)` (R9). -/
def latchBit (i : Fin 5) : Word := BitVec.ofNat 32 (2 ^ i.val)

/-- The latch of channel `i` in the interrupt-status word (R26). -/
def latched (tisr : Word) (i : Fin 5) : Bool := anySet tisr (latchBit i)

/-- `tisr | BIT(i)`: the latch of channel `i` is set (R122). -/
def setLatch (tisr : Word) (i : Fin 5) : Word := tisr ||| latchBit i

/-- `tisr & ~v`: write one to clear (R161). -/
def clearLatches (tisr v : Word) : Word := tisr &&& ~~~v

/-- The level of a line: interrupt-enable and latch (R104). -/
def irqLevel (control tisr : Word) (i : Fin 5) : Bool := anySet control maskIE && latched tisr i

/-- The class of a cause (R201). -/
def causeClass : Cause → DiagClass
  | .reservedBits | .readonlyBit | .readonlyRegister | .unknownOffsetRead | .unknownOffsetWrite => .guestError
  | .unimplemented => .unimplemented
  | .internalInvariant => .fatal

/-- The cause a fault stands for (R201, row A7). -/
def faultCause : Fault → Cause
  | .internalInvariantViolation _ => .internalInvariant

end Sys2Proof.Machine
end

