-- ==== Sys2Proof/Machine/Operands.lean ====
section
/-! DEFINITION. The operands of the operations: the prescale field (30_encoding.md R74), the time conversions
(40_primitives.md R101, R102), what a written control word keeps (42_control_register.md R141 steps 1 and 2), the
arithmetic form of the offset decode (R72) and the validity of a snapshot record (45_host_operations.md R184). -/

namespace Sys2Proof.Machine

/-- `prescale_divisor = zext(control[7:0]) + 1`, in 1..256 (R74). -/
def prescaleDivisor (control : Word) : Nat := (control.extractLsb' 0 8).toNat + 1

/-- `count_to_ns(count, divisor)` for a tick of `npt` nanoseconds (R101). -/
def countToNs (npt : Nat) (count : Word) (divisor : Nat) : Int := ((count.toNat * npt * divisor : Nat) : Int)

/-- `ns_to_count(ns, divisor)` for a tick of `npt` nanoseconds (R102): two truncating divisions, the low 32 bits of the
quotient (decision D10). For a negative `ns` the spec states no result (N9): a free value (log entry 11). -/
def nsToCount (npt : Nat) (ns : Int) (divisor : Nat) : Word :=
  if ns < 0 then Config.countOfNegative npt ns divisor
  else BitVec.ofNat 32 (ns.toNat / npt / divisor)

/-- The largest duration a count can stand for: `4294967295 * NS_PER_TICK * 256` (R29, R105). -/
def maxDuration (npt : Nat) : Int := ((4294967295 * npt * 256 : Nat) : Int)

/-- `new` after steps 1 and 2 of R141: the written word without its reserved and count-active bits. -/
def maskWritten (v : Word) : Word := v &&& ~~~maskRSVD &&& ~~~maskCACT

/-- The diagnostics of steps 1 and 2 of R141, in their order (R203). -/
def writeDiags (v : Word) : List Cause :=
  (if anySet v maskRSVD then [Cause.reservedBits] else []) ++ (if anySet v maskCACT then [Cause.readonlyBit] else [])

/-- The offset decode of R72 "in arithmetic": `g = off[6:5]`, `w = off[4:2]`, unknown from `0x80` on. -/
def decodeOffsetArith (off : Nat) : Option Reg :=
  if 0x80 ≤ off then none
  else match off / 32 % 4, off / 4 % 8 with
    | 0, 0 => some (.tcsr 0)
    | 0, 1 => some (.tcsr 1)
    | 0, 2 => some (.ticr 0)
    | 0, 3 => some (.ticr 1)
    | 0, 4 => some (.tdr 0)
    | 0, 5 => some (.tdr 1)
    | 0, 6 => some .tisr
    | 0, 7 => some .wtcr
    | 1, 0 => some (.tcsr 2)
    | 1, 1 => some (.tcsr 3)
    | 1, 2 => some (.ticr 2)
    | 1, 3 => some (.ticr 3)
    | 1, 4 => some (.tdr 2)
    | 1, 5 => some (.tdr 3)
    | 2, 0 => some (.tcsr 4)
    | 2, 2 => some (.ticr 4)
    | 2, 4 => some (.tdr 4)
    | _, _ => none

/-- One channel's clause of `valid(snap)` (R184). -/
def validChannel (npt : Nat) (c : ChannelRecord) : Bool :=
  c.control &&& (maskRSVD ||| maskCRST ||| maskCACT) == 0
    && c.armed == running c.control
    && decide (0 ≤ c.remainingNs) && decide (c.remainingNs ≤ maxDuration npt)

/-- `valid(snap)` (R184). -/
def validSnapshot (npt : Nat) (p : Snapshot) : Bool :=
  validChannel npt p.ch[0] && validChannel npt p.ch[1] && validChannel npt p.ch[2] && validChannel npt p.ch[3]
    && validChannel npt p.ch[4] && p.interruptStatus &&& 0xFFFFFFE0 == 0

end Sys2Proof.Machine
end

