-- ==== Sys2Proof/Machine/Ops.lean ====
section
/-! DEFINITION. The named operations over the state and the spec's internal procedures (40_primitives.md R100 to R109),
the expiration (R122), the control write (R141), and what decides which operation may happen when (R120, R126).
The block takes no trap and returns from none (60_exceptions.md R213, R214): its part of an interrupt is the level
that `recomputeIrq` drives. -/

namespace Sys2Proof.Machine

/-- The outcome of an operation. -/
abbrev Result := Host.Outcome State Fault Refusal

/-- Channel `i`. -/
def State.chan (s : State) (i : Fin 5) : Channel := s.ch[i]

/-- The state with channel `i` replaced. -/
def State.setChan (s : State) (i : Fin 5) (c : Channel) : State := { s with ch := s.ch.set i c }

/-- The state with channel `i` changed by `f`. -/
def State.mapChan (s : State) (i : Fin 5) (f : Channel → Channel) : State := s.setChan i (f (s.chan i))

/-- The state with another interrupt-status word. -/
def State.setTisr (s : State) (t : Word) : State := { s with tisr := t }

/-- The state with another watchdog-control word. -/
def State.setWtcr (s : State) (w : Word) : State := { s with wtcr := w }

/-- The state at another time. -/
def State.setNow (s : State) (t : Int) : State := { s with now := t }

/-- The state with other requests offered. -/
def State.setInputs (s : State) (ws : List (List Word)) : State := { s with inputs := ws }

/-- The tick of the reference clock in nanoseconds (R100). -/
def State.npt (s : State) : Nat := s.cfg.nsPerTick

/-- The state after answering `v` to a bus read (R71). -/
def State.answer (s : State) (v : Word) : State := { s with resp := some (.data v) }

/-- The state after answering a record to SNAPSHOT (R182). -/
def State.answerRecord (s : State) (p : Snapshot) : State := { s with resp := some (.record p) }

/-- The state after emitting diagnostics (R10 `diag`, R202). -/
def State.emit (s : State) (cs : List Cause) : State := { s with diags := s.diags ++ cs }

/-! ### Enabling (R120, R126) -/

/-- Channel `i` is due: armed, and its deadline is not after `now` (R120). -/
def State.due (s : State) (i : Fin 5) : Bool := (s.chan i).armed && decide ((s.chan i).deadlineNs ≤ s.now)

/-- Some channel is due: the set `D` of R126 is not empty. -/
def State.anyDue (s : State) : Bool := s.due 0 || s.due 1 || s.due 2 || s.due 3 || s.due 4

/-- The due channel of the lowest index (log entry 2: any order gives the same result, R123). -/
def State.firstDue (s : State) : Option (Fin 5) :=
  if s.due 0 then some 0
  else if s.due 1 then some 1
  else if s.due 2 then some 2
  else if s.due 3 then some 3
  else if s.due 4 then some 4
  else none

/-- Time may pass by `d` without stepping over channel `i`'s deadline (R125). -/
def State.mayPass (s : State) (d : Nat) (i : Fin 5) : Bool :=
  !(s.chan i).armed || decide (s.now + d ≤ (s.chan i).deadlineNs)

/-- `now + d` is at or before every armed deadline (R125, R126). -/
def State.mayAdvance (s : State) (d : Nat) : Bool :=
  s.mayPass d 0 && s.mayPass d 1 && s.mayPass d 2 && s.mayPass d 3 && s.mayPass d 4

/-- An operation that is enabled only while no channel is due (R126). -/
def whenNoneDue (s : State) (k : Result) : Result := if s.anyDue then .refused .channelDue else k

/-! ### Interrupt evaluation, start, pause, restart (R104, R106 to R108) -/

/-- `recompute_irq(i)` (R104). -/
def recomputeIrq (i : Fin 5) (s : State) : State :=
  s.mapChan i fun c => { c with irq := irqLevel c.control s.tisr i }

/-- `for i in 0..4: recompute_irq(i)` (R161, R184). -/
def recomputeAllIrqs (s : State) : State :=
  recomputeIrq 4 (recomputeIrq 3 (recomputeIrq 2 (recomputeIrq 1 (recomputeIrq 0 s))))

/-- `start(i)` (R106): the callback pending for the channel, if any, is replaced (R31, decision D13). -/
def start (i : Fin 5) (s : State) : State :=
  s.mapChan i fun c => { c with deadlineNs := s.now + c.remainingNs, armed := true }

/-- `pause(i)` (R107): the one place that raises the fatal assertion (R206). -/
def pause (i : Fin 5) (s : State) : Result :=
  let left := (s.chan i).deadlineNs - s.now
  if left ≤ 0 then .fault (.internalInvariantViolation i)
  else .next (s.mapChan i fun c => { c with armed := false, remainingNs := left })

/-- `remaining_ns <- count_to_ns(reload, prescale_divisor(i))`, with the control register as it stands (R108, R122). -/
def reloadRemaining (i : Fin 5) (s : State) : State :=
  s.mapChan i fun c => { c with remainingNs := countToNs s.npt c.reload (prescaleDivisor c.control) }

/-- `restart(i, old_control)` (R108): starts only a channel enabled both before and after the triggering write. -/
def restart (i : Fin 5) (old : Word) (s : State) : State :=
  let s := reloadRemaining i s
  if anySet (old &&& (s.chan i).control) maskCEN then start i s else s

/-! ### The operations on a channel -/

/-- `WR TCSRi, v`, the six steps of R141. -/
def writeControl (i : Fin 5) (v : Word) (s : State) : Result :=
  let old := (s.chan i).control
  let new := maskWritten v
  let s := s.emit (writeDiags v)
  let s := s.mapChan i fun c => { c with control := (old &&& maskCACT) ||| new }
  let s := if anySet (old ^^^ new) maskIE then recomputeIrq i s else s
  let s :=
    if anySet new maskCRST then
      (restart i old s).mapChan i fun c => { c with control := c.control &&& ~~~maskCRST }
    else s
  if anySet (old ^^^ new) maskCEN then
    if anySet new maskCEN then .next (start i s) else pause i s
  else .next s

/-- `WR TICRi, v` (R151). -/
def writeReload (i : Fin 5) (v : Word) (s : State) : State :=
  let s := s.mapChan i fun c => { c with reload := v }
  restart i (s.chan i).control s

/-- The value `RD TDRi` answers (R153). -/
def counterValue (i : Fin 5) (s : State) : Word :=
  let c := s.chan i
  if running c.control then nsToCount s.npt (c.deadlineNs - s.now) (prescaleDivisor c.control)
  else nsToCount s.npt c.remainingNs (prescaleDivisor c.control)

/-- `EXPIRE i` (R122), with its stale-callback guard (R129) and the one-shot arm's `remaining_ns <- 0`
(90_conflicts.md C3). -/
def expireChannel (i : Fin 5) (s : State) : State :=
  let s := s.mapChan i fun c => { c with armed := false }
  if running (s.chan i).control then
    let s := s.setTisr (setLatch s.tisr i)
    let s :=
      if anySet (s.chan i).control maskPERIODIC then
        let s := reloadRemaining i s
        if running (s.chan i).control then start i s else s
      else
        s.mapChan i fun c => { c with control := c.control &&& ~~~(maskCEN ||| maskCACT), remainingNs := 0 }
    recomputeIrq i s
  else s

/-! ### The operations on the whole block -/

/-- `WR TISR, v` (R161, with the eager recomputation of decision D1). -/
def writeStatus (v : Word) (s : State) : State := recomputeAllIrqs (s.setTisr (clearLatches s.tisr v))

/-- `RESET` (R250): every register at its default, every callback cancelled, every line deasserted; `now` stays. -/
def resetBlock (s : State) : State :=
  { s with
    ch := #v[Channel.reset, Channel.reset, Channel.reset, Channel.reset, Channel.reset]
    tisr := 0x00000000
    wtcr := 0x00000400 }

/-- One channel's part of the record SNAPSHOT returns (R182). -/
def Channel.record (c : Channel) : ChannelRecord :=
  ⟨c.armed, c.deadlineNs, c.remainingNs, c.control, c.reload⟩

/-- The record SNAPSHOT returns (R182). -/
def snapshotOf (s : State) : Snapshot where
  ch := #v[(s.chan 0).record, (s.chan 1).record, (s.chan 2).record, (s.chan 3).record, (s.chan 4).record]
  interruptStatus := s.tisr
  watchdogControl := s.wtcr

/-- A channel with the fields of a record; its line is recomputed afterwards (R184). -/
def Channel.load (c : Channel) (r : ChannelRecord) : Channel :=
  { c with control := r.control, reload := r.reload, remainingNs := r.remainingNs, deadlineNs := r.deadlineNs, armed := r.armed }

/-- `RESTORE snap` of a valid record (R184). -/
def loadSnapshot (p : Snapshot) (s : State) : State :=
  recomputeAllIrqs
    { s with
      ch := #v[(s.chan 0).load p.ch[0], (s.chan 1).load p.ch[1], (s.chan 2).load p.ch[2], (s.chan 3).load p.ch[3],
        (s.chan 4).load p.ch[4]]
      tisr := p.interruptStatus
      wtcr := p.watchdogControl }

/-! ### The shapes the meanings share -/

/-- A bus read that answers `v` and changes nothing else (R55), enabled while no channel is due (R126). -/
def busRead (v : Word) (s : State) : Result := whenNoneDue s (.next (s.answer v))

/-- An access to an offset that names no register: delivered to the core only below `REGION_SIZE` (R57), then `k`. -/
def unknownOffset (off : BitVec 30) (s : State) (k : Result) : Result :=
  whenNoneDue s (if off.toNat < s.cfg.regionSize.val then k else .refused .beyondRegion)

/-- `EXPIRE i`, enabled exactly when channel `i` is due (R122, R126). -/
def expireOp (i : Fin 5) (s : State) : Result :=
  if s.due i then .next (expireChannel i s) else .refused (.notDue i)

end Sys2Proof.Machine
end

