-- ==== Sys2Proof/Machine/Control.lean ====
section
/-! DEFINITION. The control registers TCSR0 to TCSR4 (42_control_register.md). -/

namespace Sys2Proof.Machine

/-- `RD TCSR0` (R140). -/
def execRdTcsr0 (s : State) : Result := busRead (s.chan 0).control s

/-- `RD TCSR1` (R140). -/
def execRdTcsr1 (s : State) : Result := busRead (s.chan 1).control s

/-- `RD TCSR2` (R140). -/
def execRdTcsr2 (s : State) : Result := busRead (s.chan 2).control s

/-- `RD TCSR3` (R140). -/
def execRdTcsr3 (s : State) : Result := busRead (s.chan 3).control s

/-- `RD TCSR4` (R140). -/
def execRdTcsr4 (s : State) : Result := busRead (s.chan 4).control s

/-- `WR TCSR0, v` (R141). -/
def execWrTcsr0 (v : Word) (s : State) : Result := whenNoneDue s (writeControl 0 v s)

/-- `WR TCSR1, v` (R141). -/
def execWrTcsr1 (v : Word) (s : State) : Result := whenNoneDue s (writeControl 1 v s)

/-- `WR TCSR2, v` (R141). -/
def execWrTcsr2 (v : Word) (s : State) : Result := whenNoneDue s (writeControl 2 v s)

/-- `WR TCSR3, v` (R141). -/
def execWrTcsr3 (v : Word) (s : State) : Result := whenNoneDue s (writeControl 3 v s)

/-- `WR TCSR4, v` (R141). -/
def execWrTcsr4 (v : Word) (s : State) : Result := whenNoneDue s (writeControl 4 v s)


end Sys2Proof.Machine
end

