-- ==== Sys2Proof/Machine/Counter.lean ====
section
/-! DEFINITION. The counter registers TDR0 to TDR4 (43_reload_and_counter.md). -/

namespace Sys2Proof.Machine

/-- `RD TDR0` (R153). -/
def execRdTdr0 (s : State) : Result := busRead (counterValue 0 s) s

/-- `RD TDR1` (R153). -/
def execRdTdr1 (s : State) : Result := busRead (counterValue 1 s) s

/-- `RD TDR2` (R153). -/
def execRdTdr2 (s : State) : Result := busRead (counterValue 2 s) s

/-- `RD TDR3` (R153). -/
def execRdTdr3 (s : State) : Result := busRead (counterValue 3 s) s

/-- `RD TDR4` (R153). -/
def execRdTdr4 (s : State) : Result := busRead (counterValue 4 s) s

/-- `WR TDR0, v` (R155): the whole write is ignored, with a diagnostic. -/
def execWrTdr0 (_v : Word) (s : State) : Result := whenNoneDue s (.next (s.emit [.readonlyRegister]))

/-- `WR TDR1, v` (R155): the whole write is ignored, with a diagnostic. -/
def execWrTdr1 (_v : Word) (s : State) : Result := whenNoneDue s (.next (s.emit [.readonlyRegister]))

/-- `WR TDR2, v` (R155): the whole write is ignored, with a diagnostic. -/
def execWrTdr2 (_v : Word) (s : State) : Result := whenNoneDue s (.next (s.emit [.readonlyRegister]))

/-- `WR TDR3, v` (R155): the whole write is ignored, with a diagnostic. -/
def execWrTdr3 (_v : Word) (s : State) : Result := whenNoneDue s (.next (s.emit [.readonlyRegister]))

/-- `WR TDR4, v` (R155): the whole write is ignored, with a diagnostic. -/
def execWrTdr4 (_v : Word) (s : State) : Result := whenNoneDue s (.next (s.emit [.readonlyRegister]))


end Sys2Proof.Machine
end

