-- ==== Sys2Proof/Machine/Lifecycle.lean ====
section
/-! DEFINITION. The host operations (45_host_operations.md, 70_reset_and_hazards.md R250). -/

namespace Sys2Proof.Machine

/-- `CONFIGURE` (R180): construction, power-on reset (decision D4); no callback is pending, `now` stays, and the
configuration is the instance's own. -/
def execConfigure (s : State) : Result := .next (resetBlock s)

/-- `RESET` (R250): enabled in every state (R126, decision D20). -/
def execReset (s : State) : Result := .next (resetBlock s)

/-- `SNAPSHOT` (R182): answers the record and changes nothing; enabled while no channel is due. -/
def execSnapshot (s : State) : Result := whenNoneDue s (.next (s.answerRecord (snapshotOf s)))

/-- `RESTORE snap` (R184): enabled in every state; a record that is not valid is refused (decision D14). -/
def execRestore (snap : Snapshot) (s : State) : Result :=
  if validSnapshot s.npt snap then .next (loadSnapshot snap s) else .refused .invalidSnapshot


end Sys2Proof.Machine
end

