-- ==== Sys2Proof/Machine/Reload.lean ====
section
/-! DEFINITION. The reload registers TICR0 to TICR4 (43_reload_and_counter.md). -/

namespace Sys2Proof.Machine

/-- `RD TICR0` (R150). -/
def execRdTicr0 (s : State) : Result := busRead (s.chan 0).reload s

/-- `RD TICR1` (R150). -/
def execRdTicr1 (s : State) : Result := busRead (s.chan 1).reload s

/-- `RD TICR2` (R150). -/
def execRdTicr2 (s : State) : Result := busRead (s.chan 2).reload s

/-- `RD TICR3` (R150). -/
def execRdTicr3 (s : State) : Result := busRead (s.chan 3).reload s

/-- `RD TICR4` (R150). -/
def execRdTicr4 (s : State) : Result := busRead (s.chan 4).reload s

/-- `WR TICR0, v` (R151). -/
def execWrTicr0 (v : Word) (s : State) : Result := whenNoneDue s (.next (writeReload 0 v s))

/-- `WR TICR1, v` (R151). -/
def execWrTicr1 (v : Word) (s : State) : Result := whenNoneDue s (.next (writeReload 1 v s))

/-- `WR TICR2, v` (R151). -/
def execWrTicr2 (v : Word) (s : State) : Result := whenNoneDue s (.next (writeReload 2 v s))

/-- `WR TICR3, v` (R151). -/
def execWrTicr3 (v : Word) (s : State) : Result := whenNoneDue s (.next (writeReload 3 v s))

/-- `WR TICR4, v` (R151). -/
def execWrTicr4 (v : Word) (s : State) : Result := whenNoneDue s (.next (writeReload 4 v s))


end Sys2Proof.Machine
end

