-- ==== Sys2Proof/Machine/Shared.lean ====
section
/-! DEFINITION. The shared registers TISR and WTCR, and unknown offsets (44_shared_registers.md). -/

namespace Sys2Proof.Machine

/-- `RD TISR` (R160): reading does not clear the latches. -/
def execRdTisr (s : State) : Result := busRead s.tisr s

/-- `WR TISR, v` (R161). -/
def execWrTisr (v : Word) (s : State) : Result := whenNoneDue s (.next (writeStatus v s))

/-- `RD WTCR` (R163). -/
def execRdWtcr (s : State) : Result := busRead s.wtcr s

/-- `WR WTCR, v` (R164): stored verbatim, with a diagnostic, and nothing else; the watchdog function is no part of the
block (R5). -/
def execWrWtcr (v : Word) (s : State) : Result :=
  whenNoneDue s (.next ((s.setWtcr v).emit [.unimplemented]))

/-- `RD UNKNOWN off` (R165). -/
def execRdUnknown (off : BitVec 30) (s : State) : Result :=
  unknownOffset off s (.next ((s.emit [.unknownOffsetRead]).answer 0))

/-- `WR UNKNOWN off, v` (R166). -/
def execWrUnknown (off : BitVec 30) (_v : Word) (s : State) : Result :=
  unknownOffset off s (.next (s.emit [.unknownOffsetWrite]))


end Sys2Proof.Machine
end

