-- ==== Sys2Proof/Machine/TimeBase.lean ====
section
/-! DEFINITION. The time base: ADVANCE and EXPIRE (41_expiration_and_time.md). -/

namespace Sys2Proof.Machine

/-- `ADVANCE d` (R125): time passes, never over an armed deadline, and only while no channel is due. -/
def execAdvance (d : Nat) (s : State) : Result :=
  if d = 0 then .refused .advanceByZero
  else whenNoneDue s (if s.mayAdvance d then .next (s.setNow (s.now + d)) else .refused .passesDeadline)

/-- `EXPIRE 0` (R122). -/
def execExpire0 (s : State) : Result := expireOp 0 s

/-- `EXPIRE 1` (R122). -/
def execExpire1 (s : State) : Result := expireOp 1 s

/-- `EXPIRE 2` (R122). -/
def execExpire2 (s : State) : Result := expireOp 2 s

/-- `EXPIRE 3` (R122). -/
def execExpire3 (s : State) : Result := expireOp 3 s

/-- `EXPIRE 4` (R122). -/
def execExpire4 (s : State) : Result := expireOp 4 s


end Sys2Proof.Machine
end

