-- ==== Sys2Proof/Machine/Dispatch.lean ====
section
/-! DEFINITION. One arm per operation, each one direct call of its meaning (30_encoding.md R79). -/

namespace Sys2Proof.Machine

/-- The meaning of an operation. -/
def exec (i : Instr) (s : State) : Host.Outcome State Fault Refusal :=
  match i with
  | .rdTcsr0 => Sys2Proof.Machine.execRdTcsr0 s
  | .wrTcsr0 v => Sys2Proof.Machine.execWrTcsr0 v s
  | .rdTcsr1 => Sys2Proof.Machine.execRdTcsr1 s
  | .wrTcsr1 v => Sys2Proof.Machine.execWrTcsr1 v s
  | .rdTicr0 => Sys2Proof.Machine.execRdTicr0 s
  | .wrTicr0 v => Sys2Proof.Machine.execWrTicr0 v s
  | .rdTicr1 => Sys2Proof.Machine.execRdTicr1 s
  | .wrTicr1 v => Sys2Proof.Machine.execWrTicr1 v s
  | .rdTdr0 => Sys2Proof.Machine.execRdTdr0 s
  | .wrTdr0 v => Sys2Proof.Machine.execWrTdr0 v s
  | .rdTdr1 => Sys2Proof.Machine.execRdTdr1 s
  | .wrTdr1 v => Sys2Proof.Machine.execWrTdr1 v s
  | .rdTisr => Sys2Proof.Machine.execRdTisr s
  | .wrTisr v => Sys2Proof.Machine.execWrTisr v s
  | .rdWtcr => Sys2Proof.Machine.execRdWtcr s
  | .wrWtcr v => Sys2Proof.Machine.execWrWtcr v s
  | .rdTcsr2 => Sys2Proof.Machine.execRdTcsr2 s
  | .wrTcsr2 v => Sys2Proof.Machine.execWrTcsr2 v s
  | .rdTcsr3 => Sys2Proof.Machine.execRdTcsr3 s
  | .wrTcsr3 v => Sys2Proof.Machine.execWrTcsr3 v s
  | .rdTicr2 => Sys2Proof.Machine.execRdTicr2 s
  | .wrTicr2 v => Sys2Proof.Machine.execWrTicr2 v s
  | .rdTicr3 => Sys2Proof.Machine.execRdTicr3 s
  | .wrTicr3 v => Sys2Proof.Machine.execWrTicr3 v s
  | .rdTdr2 => Sys2Proof.Machine.execRdTdr2 s
  | .wrTdr2 v => Sys2Proof.Machine.execWrTdr2 v s
  | .rdTdr3 => Sys2Proof.Machine.execRdTdr3 s
  | .wrTdr3 v => Sys2Proof.Machine.execWrTdr3 v s
  | .rdTcsr4 => Sys2Proof.Machine.execRdTcsr4 s
  | .wrTcsr4 v => Sys2Proof.Machine.execWrTcsr4 v s
  | .rdTicr4 => Sys2Proof.Machine.execRdTicr4 s
  | .wrTicr4 v => Sys2Proof.Machine.execWrTicr4 v s
  | .rdTdr4 => Sys2Proof.Machine.execRdTdr4 s
  | .wrTdr4 v => Sys2Proof.Machine.execWrTdr4 v s
  | .rdUnknown off => Sys2Proof.Machine.execRdUnknown off s
  | .wrUnknown off v => Sys2Proof.Machine.execWrUnknown off v s
  | .configure => Sys2Proof.Machine.execConfigure s
  | .reset => Sys2Proof.Machine.execReset s
  | .snapshot => Sys2Proof.Machine.execSnapshot s
  | .restore snap => Sys2Proof.Machine.execRestore snap s
  | .advance d => Sys2Proof.Machine.execAdvance d s
  | .expire0 => Sys2Proof.Machine.execExpire0 s
  | .expire1 => Sys2Proof.Machine.execExpire1 s
  | .expire2 => Sys2Proof.Machine.execExpire2 s
  | .expire3 => Sys2Proof.Machine.execExpire3 s
  | .expire4 => Sys2Proof.Machine.execExpire4 s

end Sys2Proof.Machine
end

