-- ==== Sys2Proof/WellFormed.lean ====
section
/-! DEFINITION. Which operations the formats of 30_encoding.md R71, R78 and R183 admit. -/

namespace Sys2Proof

/-- An int64 field holds its value (R183). -/
def fitsInt64 (t : Int) : Bool := decide (-(2 ^ 63) ≤ t) && decide (t < 2 ^ 63)

/-- No register of the map stands at byte offset `off` (R70, R72: `unknown`). -/
def namesNoRegister (off : Nat) : Bool := Reg.all.all (fun r => r.offset != off)

/-- Both time fields of a channel's record fit their int64 (R183). -/
def ChannelRecord.wellFormed (c : ChannelRecord) : Bool := fitsInt64 c.deadlineNs && fitsInt64 c.remainingNs

/-- Every time field of a snapshot record fits its int64 (R183). -/
def Snapshot.wellFormed (p : Snapshot) : Bool :=
  p.ch[0].wellFormed && p.ch[1].wellFormed && p.ch[2].wellFormed && p.ch[3].wellFormed && p.ch[4].wellFormed

/-- An operation with operands its format admits. An access to an unknown offset names a word-aligned offset of no
register (R165, R166); `ADVANCE d` has `d > 0` (R78) within its operand words (log entry 4); a record fits its
types (R183). Whether an unknown offset lies below `REGION_SIZE` depends on the configuration and is checked where
the access is performed. -/
def Instr.wellFormed : Instr → Bool
  | .rdUnknown off => decide (off.toNat % 4 = 0) && namesNoRegister off.toNat
  | .wrUnknown off _ => decide (off.toNat % 4 = 0) && namesNoRegister off.toNat
  | .restore snap => snap.wellFormed
  | .advance d => decide (0 < d) && decide (d ≤ 2 ^ 64)
  | .rdTcsr0 | .rdTcsr1 | .rdTcsr2 | .rdTcsr3 | .rdTcsr4 => true
  | .wrTcsr0 _ | .wrTcsr1 _ | .wrTcsr2 _ | .wrTcsr3 _ | .wrTcsr4 _ => true
  | .rdTicr0 | .rdTicr1 | .rdTicr2 | .rdTicr3 | .rdTicr4 => true
  | .wrTicr0 _ | .wrTicr1 _ | .wrTicr2 _ | .wrTicr3 _ | .wrTicr4 _ => true
  | .rdTdr0 | .rdTdr1 | .rdTdr2 | .rdTdr3 | .rdTdr4 => true
  | .wrTdr0 _ | .wrTdr1 _ | .wrTdr2 _ | .wrTdr3 _ | .wrTdr4 _ => true
  | .rdTisr | .wrTisr _ | .rdWtcr | .wrWtcr _ => true
  | .configure | .reset | .snapshot => true
  | .expire0 | .expire1 | .expire2 | .expire3 | .expire4 => true

end Sys2Proof
end

