-- ==== Sys2Proof/Decode.lean ====
section
/-! DEFINITION. Decoding an operation from its words and encoding it (30_encoding.md R70 to R72, R78, R79).

An operation is a list of 32-bit words: the selector of R71 (`sel[31:30]` the class, `sel[29:0]` the byte offset or
the event number), then the data word of a bus write. `ADVANCE` and `RESTORE` have operands and no encoding of them in
the spec; their operand words are the model's (log entry 4, DESIGN CHOICE):
`ADVANCE d` carries `d - 1` in two words, low word first, so that every value of the words is a legal `d > 0`;
`RESTORE snap` carries the 37 words of the record in the order of R183. -/

namespace Sys2Proof

/-- Why a list of words is no operation of the block. -/
inductive DecodeError where
  /-- there is no word -/
  | noSelector
  /-- the selector's class is 3, which R71 does not define -/
  | reservedClass
  /-- the selector's event number is none of R78 -/
  | unknownEvent
  /-- a bus access at an offset that is no multiple of 4 (R53, R71) -/
  | misaligned
  /-- more or fewer operand words than the operation has, or an operand word that is no value of its field -/
  | badOperands
deriving DecidableEq, Repr

/-- `decode(off)` of R72: the register at a byte offset, or none where R70 names none. -/
def decodeOffset : Nat → Option Reg
  | 0x00 => some (.tcsr 0)
  | 0x04 => some (.tcsr 1)
  | 0x08 => some (.ticr 0)
  | 0x0C => some (.ticr 1)
  | 0x10 => some (.tdr 0)
  | 0x14 => some (.tdr 1)
  | 0x18 => some .tisr
  | 0x1C => some .wtcr
  | 0x20 => some (.tcsr 2)
  | 0x24 => some (.tcsr 3)
  | 0x28 => some (.ticr 2)
  | 0x2C => some (.ticr 3)
  | 0x30 => some (.tdr 2)
  | 0x34 => some (.tdr 3)
  | 0x40 => some (.tcsr 4)
  | 0x48 => some (.ticr 4)
  | 0x50 => some (.tdr 4)
  | _ => none

/-- The class field `sel[31:30]` (R71). -/
def selClass (sel : Word) : BitVec 2 := sel.extractLsb' 30 2

/-- The offset or event field `sel[29:0]` (R71). -/
def selField (sel : Word) : BitVec 30 := sel.extractLsb' 0 30

/-- The selector of a class and an offset or event number (R71). -/
def selector (cls : BitVec 2) (field : BitVec 30) : Word := cls ++ field

/-- A 64-bit value from its low and high words. -/
def dword (lo hi : Word) : BitVec 64 := hi ++ lo

/-- The low and high words of a 64-bit value. -/
def dwordWords (x : BitVec 64) : List Word := [x.extractLsb' 0 32, x.extractLsb' 32 32]

/-- The read of offset `off` (R79: a row of the map, else `RD UNKNOWN`). -/
def decodeRead (off : BitVec 30) : Instr :=
  match decodeOffset off.toNat with
  | some r => .rd r
  | none => .rdUnknown off

/-- The write of `v` at offset `off` (R79). -/
def decodeWrite (off : BitVec 30) (v : Word) : Instr :=
  match decodeOffset off.toNat with
  | some r => .wr r v
  | none => .wrUnknown off v

/-- One channel's seven words of a record, in the order of R183, and the words after them. -/
def decodeChannel : List Word → Option (ChannelRecord × List Word)
  | a :: dl :: dh :: rl :: rh :: c :: r :: rest =>
    if a = 0 ∨ a = 1 then
      some (⟨a == 1, (dword dl dh).toInt, (dword rl rh).toInt, c, r⟩, rest)
    else none
  | _ => none

/-- The 37 words of a record (R183; log entry 4). -/
def decodeSnapshot (ws : List Word) : Option Snapshot := do
  let (c0, ws) ← decodeChannel ws
  let (c1, ws) ← decodeChannel ws
  let (c2, ws) ← decodeChannel ws
  let (c3, ws) ← decodeChannel ws
  let (c4, ws) ← decodeChannel ws
  match ws with
  | [t, w] => some ⟨#v[c0, c1, c2, c3, c4], t, w⟩
  | _ => none

/-- An operation without operand words. -/
def withoutOperands (ops : List Word) (i : Instr) : Except DecodeError Instr :=
  match ops with
  | [] => .ok i
  | _ :: _ => .error .badOperands

/-- The write of offset `off` with its one data word (R71). -/
def withDataWord (ops : List Word) (off : BitVec 30) : Except DecodeError Instr :=
  match ops with
  | [v] => .ok (decodeWrite off v)
  | _ => .error .badOperands

/-- `ADVANCE d` with its two operand words (log entry 4). -/
def withDuration (ops : List Word) : Except DecodeError Instr :=
  match ops with
  | [lo, hi] => .ok (.advance ((dword lo hi).toNat + 1))
  | _ => .error .badOperands

/-- `RESTORE snap` with the words of its record (log entry 4). -/
def withRecord (ops : List Word) : Except DecodeError Instr :=
  match decodeSnapshot ops with
  | some snap => .ok (.restore snap)
  | none => .error .badOperands

/-- The event of a number (R78) with its operand words. -/
def decodeEvent (number : Nat) (ops : List Word) : Except DecodeError Instr :=
  match number with
  | 0 => withoutOperands ops .configure
  | 1 => withoutOperands ops .reset
  | 2 => withoutOperands ops .snapshot
  | 3 => withRecord ops
  | 4 => withDuration ops
  | 8 => withoutOperands ops .expire0
  | 9 => withoutOperands ops .expire1
  | 10 => withoutOperands ops .expire2
  | 11 => withoutOperands ops .expire3
  | 12 => withoutOperands ops .expire4
  | _ => .error .unknownEvent

/-- The operation a selector and its operand words are, or why they are none. -/
def decodeSelected (cls : BitVec 2) (field : BitVec 30) (ops : List Word) : Except DecodeError Instr :=
  match cls with
  | 0 => if field.toNat % 4 ≠ 0 then .error .misaligned else withoutOperands ops (decodeRead field)
  | 1 => if field.toNat % 4 ≠ 0 then .error .misaligned else withDataWord ops field
  | 2 => decodeEvent field.toNat ops
  | _ => .error .reservedClass

/-- The operation a list of words is, or why it is none: total on any words. -/
def decode : List Word → Except DecodeError Instr
  | [] => .error .noSelector
  | sel :: ops => decodeSelected (selClass sel) (selField sel) ops

/-- The words of a read of offset `off` (R71). -/
def encodeRead (off : BitVec 30) : List Word := [selector 0 off]

/-- The words of a write of `v` at offset `off` (R71). -/
def encodeWrite (off : BitVec 30) (v : Word) : List Word := [selector 1 off, v]

/-- The words of an event and its operand words (R71, R78). -/
def encodeEvent (number : BitVec 30) (ops : List Word) : List Word := selector 2 number :: ops

/-- The seven words of one channel's record (R183; log entry 4). -/
def encodeChannel (c : ChannelRecord) : List Word :=
  [if c.armed then 1 else 0] ++ dwordWords (BitVec.ofInt 64 c.deadlineNs)
    ++ dwordWords (BitVec.ofInt 64 c.remainingNs) ++ [c.control, c.reload]

/-- The 37 words of a record (R183; log entry 4). -/
def encodeSnapshot (p : Snapshot) : List Word :=
  encodeChannel p.ch[0] ++ encodeChannel p.ch[1] ++ encodeChannel p.ch[2] ++ encodeChannel p.ch[3]
    ++ encodeChannel p.ch[4] ++ [p.interruptStatus, p.watchdogControl]

/-- The words of an operation, from the map of R70 and the event numbers of R78. -/
def encode : Instr → List Word
  | .rdTcsr0 => encodeRead 0x00
  | .wrTcsr0 v => encodeWrite 0x00 v
  | .rdTcsr1 => encodeRead 0x04
  | .wrTcsr1 v => encodeWrite 0x04 v
  | .rdTicr0 => encodeRead 0x08
  | .wrTicr0 v => encodeWrite 0x08 v
  | .rdTicr1 => encodeRead 0x0C
  | .wrTicr1 v => encodeWrite 0x0C v
  | .rdTdr0 => encodeRead 0x10
  | .wrTdr0 v => encodeWrite 0x10 v
  | .rdTdr1 => encodeRead 0x14
  | .wrTdr1 v => encodeWrite 0x14 v
  | .rdTisr => encodeRead 0x18
  | .wrTisr v => encodeWrite 0x18 v
  | .rdWtcr => encodeRead 0x1C
  | .wrWtcr v => encodeWrite 0x1C v
  | .rdTcsr2 => encodeRead 0x20
  | .wrTcsr2 v => encodeWrite 0x20 v
  | .rdTcsr3 => encodeRead 0x24
  | .wrTcsr3 v => encodeWrite 0x24 v
  | .rdTicr2 => encodeRead 0x28
  | .wrTicr2 v => encodeWrite 0x28 v
  | .rdTicr3 => encodeRead 0x2C
  | .wrTicr3 v => encodeWrite 0x2C v
  | .rdTdr2 => encodeRead 0x30
  | .wrTdr2 v => encodeWrite 0x30 v
  | .rdTdr3 => encodeRead 0x34
  | .wrTdr3 v => encodeWrite 0x34 v
  | .rdTcsr4 => encodeRead 0x40
  | .wrTcsr4 v => encodeWrite 0x40 v
  | .rdTicr4 => encodeRead 0x48
  | .wrTicr4 v => encodeWrite 0x48 v
  | .rdTdr4 => encodeRead 0x50
  | .wrTdr4 v => encodeWrite 0x50 v
  | .rdUnknown off => encodeRead off
  | .wrUnknown off v => encodeWrite off v
  | .configure => encodeEvent 0 []
  | .reset => encodeEvent 1 []
  | .snapshot => encodeEvent 2 []
  | .restore snap => encodeEvent 3 (encodeSnapshot snap)
  | .advance d => encodeEvent 4 (dwordWords (BitVec.ofNat 64 (d - 1)))
  | .expire0 => encodeEvent 8 []
  | .expire1 => encodeEvent 9 []
  | .expire2 => encodeEvent 10 []
  | .expire3 => encodeEvent 11 []
  | .expire4 => encodeEvent 12 []

/-- How many operand words follow a selector; none for a selector that names no operation. -/
def operandWords (sel : Word) : Nat :=
  match selClass sel with
  | 0 => 0
  | 1 => 1
  | 2 =>
    match (selField sel).toNat with
    | 3 => 37
    | 4 => 2
    | _ => 0
  | _ => 0

/-- The words of an instruction whose bits are the low `nbits` bits of `w`, bit 0 the least significant bit of the
first word, and every bit above them 0; exactly as many words as its selector asks for. -/
def tableWords (nbits w : Nat) : List Word :=
  let sel := BitVec.ofNat 32 (w % 2 ^ nbits)
  (List.range (1 + operandWords sel)).map fun k => BitVec.ofNat 32 ((w % 2 ^ nbits) >>> (32 * k))

/-- The operation that `decode` reads from an instruction whose bits are `w`. -/
def decodeTableWord (nbits w : Nat) : Option Instr :=
  match decode (tableWords nbits w) with
  | .ok i => some i
  | .error _ => none

end Sys2Proof
end

