-- ==== Sys2Proof/Machine/Fetch.lean ====
section
/-! DEFINITION. Which operation happens next (41_expiration_and_time.md R126, R132; 20_memory.md R58, R61).

The block fetches nothing (R24): its agents offer operations, and `State.inputs` lists the words of those offered, in
the order they happen in (log entry 1). An owed expiration comes before every operation that R126 does not enable
in that state (log entry 2); with nothing offered and nothing owed the machine waits (log entry 3). -/

namespace Sys2Proof.Machine

/-- What a step finds to do. -/
inductive Fetched where
  /-- perform this operation, in this state -/
  | run (i : Instr) (s : State)
  /-- nothing is offered and nothing is owed -/
  | idle
  /-- what is offered is no operation of the block -/
  | reject (r : Refusal)

/-- The operations that are enabled only while no channel is due (R126): bus accesses, SNAPSHOT and ADVANCE. The
others are CONFIGURE, RESET and RESTORE, enabled always, and the EXPIREs, enabled by their own channel. -/
def waitsForDue : Instr → Bool
  | .rdTcsr0 | .rdTcsr1 | .rdTcsr2 | .rdTcsr3 | .rdTcsr4 => true
  | .wrTcsr0 _ | .wrTcsr1 _ | .wrTcsr2 _ | .wrTcsr3 _ | .wrTcsr4 _ => true
  | .rdTicr0 | .rdTicr1 | .rdTicr2 | .rdTicr3 | .rdTicr4 => true
  | .wrTicr0 _ | .wrTicr1 _ | .wrTicr2 _ | .wrTicr3 _ | .wrTicr4 _ => true
  | .rdTdr0 | .rdTdr1 | .rdTdr2 | .rdTdr3 | .rdTdr4 => true
  | .wrTdr0 _ | .wrTdr1 _ | .wrTdr2 _ | .wrTdr3 _ | .wrTdr4 _ => true
  | .rdTisr | .wrTisr _ | .rdWtcr | .wrWtcr _ | .rdUnknown _ | .wrUnknown _ _ => true
  | .snapshot | .advance _ => true
  | .configure | .reset | .restore _ => false
  | .expire0 | .expire1 | .expire2 | .expire3 | .expire4 => false

/-- The operations that are enabled while some channel is due (R126): CONFIGURE, RESET and RESTORE always, an EXPIRE
when its own channel is due. -/
def enabledWhileDue (s : State) : Instr → Bool
  | .configure | .reset | .restore _ => true
  | .expire0 => s.due 0
  | .expire1 => s.due 1
  | .expire2 => s.due 2
  | .expire3 => s.due 3
  | .expire4 => s.due 4
  | .rdTcsr0 | .rdTcsr1 | .rdTcsr2 | .rdTcsr3 | .rdTcsr4 => false
  | .wrTcsr0 _ | .wrTcsr1 _ | .wrTcsr2 _ | .wrTcsr3 _ | .wrTcsr4 _ => false
  | .rdTicr0 | .rdTicr1 | .rdTicr2 | .rdTicr3 | .rdTicr4 => false
  | .wrTicr0 _ | .wrTicr1 _ | .wrTicr2 _ | .wrTicr3 _ | .wrTicr4 _ => false
  | .rdTdr0 | .rdTdr1 | .rdTdr2 | .rdTdr3 | .rdTdr4 => false
  | .wrTdr0 _ | .wrTdr1 _ | .wrTdr2 _ | .wrTdr3 _ | .wrTdr4 _ => false
  | .rdTisr | .wrTisr _ | .rdWtcr | .wrWtcr _ | .rdUnknown _ | .wrUnknown _ _ => false
  | .snapshot | .advance _ => false

/-- The refusal for words that decode to nothing: an access the region's boundary rejects (R53), or no operation. -/
def decodeRefusal : DecodeError → Refusal
  | .misaligned => .rejectedAtBoundary
  | .noSelector | .reservedClass | .unknownEvent | .badOperands => .notAnOperation

/-- What the step does next when no expiration comes first: the first operation offered, taken off the list. -/
def fetchOffered (s : State) : Fetched :=
  match s.inputs with
  | [] => .idle
  | ws :: rest =>
    match decode ws with
    | .ok i => .run i (s.setInputs rest)
    | .error e => .reject (decodeRefusal e)

/-- An operation is offered first that R126 enables now although a channel is due. An EXPIRE whose channel is not due is
none: an owed expiration is never withheld for it (R132). -/
def offersUrgent (s : State) : Bool :=
  match s.inputs with
  | [] => false
  | ws :: _ =>
    match decode ws with
    | .ok i => enabledWhileDue s i
    | .error _ => false

/-- What a step finds to do: the owed expiration of the lowest due channel, unless an operation that R126 enables all
the same is offered first; else the first operation offered. -/
def fetch (s : State) : Fetched :=
  match s.firstDue with
  | some k => if offersUrgent s then fetchOffered s else .run (.expire k) s
  | none => fetchOffered s

/-- The state with `ws` as the one operation offered. -/
def offerOnly (ws : List Word) (s : State) : State := s.setInputs [ws]

/-- Channel `i` running and due now: count-enable set, a callback pending, its deadline reached (R25, R120). -/
def makeDue (i : Fin 5) (s : State) : State :=
  s.mapChan i fun c => { c with control := c.control ||| maskCEN, armed := true, deadlineNs := s.now }

/-- What an operation needs beside its words to happen next: an expiration needs its channel due (R122, R126; log
entry 16); nothing else needs anything. -/
def prepareFor (sel : Word) (s : State) : State :=
  if selClass sel = 2 then
    match (selField sel).toNat with
    | 8 => if s.due 0 then s else makeDue 0 s
    | 9 => if s.due 1 then s else makeDue 1 s
    | 10 => if s.due 2 then s else makeDue 2 s
    | 11 => if s.due 3 then s else makeDue 3 s
    | 12 => if s.due 4 then s else makeDue 4 s
    | _ => s
  else s

end Sys2Proof.Machine
end

