-- ==== Sys2Proof/Machine/Step.lean ====
section
/-! DEFINITION. One step of the machine: one operation, atomic (00_scope.md R10, 20_memory.md R58). -/

namespace Sys2Proof.Machine

/-- One step: what `fetch` finds to do is done. -/
def step (s : State) : Host.Outcome State Fault Refusal :=
  match fetch s with
  | .run i s' => exec i s'
  | .idle => .next s
  | .reject r => .refused r

/-- `s` with the operation whose bits are `w` offered as the one operation, so that the very next step performs it
from a state in which no channel is due; an expiration's channel is made due if it is not (log entries 1 and 16). -/
def State.withFetchWord (s : State) (nbits w : Nat) : State :=
  offerOnly (tableWords nbits w) (prepareFor (BitVec.ofNat 32 (w % 2 ^ nbits)) s)

end Sys2Proof.Machine
end

