-- ==== Sys2Proof/Machine/Port.lean ====
section
/-! DEFINITION. The bus slave port and the memory-region boundary before it (20_memory.md R50 to R53, R57).
The boundary is outside the block: it delivers whole aligned 32-bit accesses below `REGION_SIZE` and rejects the
others, which are no operation of the block. The step never sees a rejected access. -/

namespace Sys2Proof.Machine

/-- An access as the bus master makes it, at an offset from the block's base: R50, R71, with its width (R53). -/
structure BusAccess where
  /-- a write, else a read -/
  write : Bool
  /-- the byte offset within the block -/
  off : Nat
  /-- the width in bytes -/
  bytes : Nat
  /-- the data word of a write; the block takes nothing of an access it never sees -/
  data : Word
  /-- which access of the bus master this is; MODEL, read only by the free value of a rejected access (log entry 33) -/
  serial : Nat
deriving DecidableEq, Repr

/-- The access reaches the core (R53, R57). -/
def reachesCore (cfg : Config) (a : BusAccess) : Bool :=
  decide (a.bytes = 4) && decide (a.off % 4 = 0) && decide (a.off < cfg.regionSize.val)

/-- The words of the operation an access is (R71). -/
def accessWords (a : BusAccess) : List Word :=
  if a.write then encodeWrite (BitVec.ofNat 30 a.off) a.data else encodeRead (BitVec.ofNat 30 a.off)

/-- What becomes of an access: delivered, it is offered to the block after the operations already offered; rejected,
the block's state is as it was and the bus master gets the platform's `BUS_REJECT_RESPONSE` (R53, decision D6). -/
def present (a : BusAccess) (s : State) : State × Option BusResponse :=
  if reachesCore s.cfg a then (s.setInputs (s.inputs ++ [accessWords a]), none)
  else (s, some (Config.busRejectResponse a.write a.off a.bytes a.serial))

/-- The byte at offset `k` of a register seen by a byte-addressing bus master: little-endian lanes (R52, decision
D5). -/
def byteLane (w : Word) (k : Fin 4) : BitVec 8 := w.extractLsb' (8 * k.val) 8

/-- `RegRead(off)` of R50 and R71: the value a read of a word-aligned offset returns. -/
def regRead (off : Nat) (s : State) : Word :=
  match decodeOffset off with
  | some (.tcsr i) => (s.chan i).control
  | some (.ticr i) => (s.chan i).reload
  | some (.tdr i) => counterValue i s
  | some .tisr => s.tisr
  | some .wtcr => s.wtcr
  | none => 0

/-- `RegWrite(off, v)` of R50 and R71: what a write of a word-aligned offset does. -/
def regWrite (off : Nat) (v : Word) (s : State) : Result :=
  match decodeOffset off with
  | some (.tcsr i) => writeControl i v s
  | some (.ticr i) => .next (writeReload i v s)
  | some (.tdr _) => .next (s.emit [.readonlyRegister])
  | some .tisr => .next (writeStatus v s)
  | some .wtcr => .next ((s.setWtcr v).emit [.unimplemented])
  | none => .next (s.emit [.unknownOffsetWrite])

end Sys2Proof.Machine
end

