-- ==== Sys2Proof/Safety.lean ====
section
/-! DEFINITION. What the spec promises of every state between operations (10_state.md R29, R33, R36 to R39), what a run
may end in (R132), what an operation leaves alone, and what counts as a safe outcome, in the terms the statements use. -/

namespace Sys2Proof.Machine

/-- No channel is due: the set `D` of R126 is empty. -/
abbrev NoneDue (s : State) : Prop := ∀ i, ¬((s.chan i).armed = true ∧ (s.chan i).deadlineNs ≤ s.now)

/-- What R36, R37, R33, R38, R39 and the lower bound of R29 say of one channel. -/
abbrev ChannelInv (tisr : Word) (i : Fin 5) (c : Channel) : Prop :=
  c.armed = running c.control
    ∧ c.irq = irqLevel c.control tisr i
    ∧ c.control &&& (maskRSVD ||| maskCRST ||| maskCACT) = 0
    ∧ 0 ≤ c.remainingNs

/-- The invariants of 10_state.md section 6: every channel's, and no bit of TISR above bit 4 (R39). -/
abbrev BlockInv (s : State) : Prop :=
  (∀ i, ChannelInv s.tisr i (s.chan i)) ∧ s.tisr &&& 0xFFFFFFE0 = 0

/-- Time is not negative, no duration is longer than a count can stand for (R29), every deadline, stale ones too, lies
between 0 and the longest duration from now, and a pending one not before now (R105, R126). -/
abbrev TimeInv (s : State) : Prop :=
  0 ≤ s.now ∧ ∀ i, 0 ≤ (s.chan i).remainingNs ∧ (s.chan i).remainingNs ≤ maxDuration s.npt
    ∧ 0 ≤ (s.chan i).deadlineNs ∧ (s.chan i).deadlineNs ≤ s.now + maxDuration s.npt
    ∧ ((s.chan i).armed = true → s.now ≤ (s.chan i).deadlineNs)

/-- A record whose deadlines TimeInv would admit now: what a host that lets `now` continue from the snapshot
(R184) restores. -/
abbrev TimelyRecord (p : Snapshot) (s : State) : Prop :=
  ∀ i : Fin 5, 0 ≤ p.ch[i].deadlineNs ∧ p.ch[i].deadlineNs ≤ s.now + maxDuration s.npt
    ∧ (p.ch[i].armed = true → s.now ≤ p.ch[i].deadlineNs)

/-- The environment's guarantee of D19 and R105: `now` leaves room for the longest duration in an int64. -/
abbrev TimeRoom (s : State) : Prop := s.now + maxDuration s.npt < 2 ^ 63

/-- A state a finite run may end in (R132, decision D24): no expiration is owed. -/
abbrev MayEnd (s : State) : Prop := NoneDue s

/-- The livelock of R124 and R255: channel `i` running, periodic, with reload 0, and due. -/
abbrev Livelocked (i : Fin 5) (s : State) : Prop :=
  running (s.chan i).control = true ∧ anySet (s.chan i).control maskPERIODIC = true ∧ (s.chan i).reload = 0
    ∧ (s.chan i).armed = true ∧ (s.chan i).deadlineNs ≤ s.now

/-- `t` has the channels, latches, watchdog word and time of `s`: the block's own state (R20). -/
abbrev SameBlock (s t : State) : Prop :=
  (∀ i, t.chan i = s.chan i) ∧ t.tisr = s.tisr ∧ t.wtcr = s.wtcr ∧ t.now = s.now

/-- Outside the block, `t` has what `s` has: the configuration, the offered requests and the latest answer. -/
abbrev SameOutside (s t : State) : Prop := t.cfg = s.cfg ∧ t.inputs = s.inputs ∧ t.resp = s.resp

/-- `t` is `s` but for channel `k` and the diagnostics (R167). -/
abbrev OnlyChannel (k : Fin 5) (s t : State) : Prop :=
  (∀ j, j ≠ k → t.chan j = s.chan j) ∧ t.tisr = s.tisr ∧ t.wtcr = s.wtcr ∧ t.now = s.now ∧ SameOutside s t

/-- A control write stops a running channel (R141 step 6, 1 to 0). -/
abbrev Disables (k : Fin 5) (v : Word) (s : State) : Prop :=
  running (s.chan k).control = true ∧ running v = false

/-- An outcome that is not the fatal assertion (R206). -/
abbrev NoFault (r : Result) : Prop := ∀ f, r ≠ .fault f

end Sys2Proof.Machine
end

