-- ==== Sys2Proof/Certificates/Slice0/Obligations.lean ====
section
/-! DEFINITION. The statements for the provers. Every docstring names the rules of spec/ a statement rests on; where a
clause rests on one of the spec's own decisions D<n> or on a choice of the model, it says so. -/

open Sys2Proof Sys2Proof.Machine

/-! ### Encoding -/

/-- R71, R72, R78, R79; the operand words of ADVANCE and RESTORE are the model's (log entry 4). Decoding the encoding of
a well-formed operation gives the operation back, at every operand its format admits. -/
def Obligations.DecodeOfEncode : Prop := ∀ i : Instr, i.wellFormed = true → decode (encode i) = .ok i

/-- R71, R72, R78, R79; log entry 4. Words that decode are the encoding of the well-formed operation they decode to: no
word of them is dropped and no operation has two encodings. -/
def Obligations.EncodeOfDecode : Prop := ∀ ws i, decode ws = .ok i → i.wellFormed = true ∧ encode i = ws

/-- Words of the traces of 95_test_vectors.md, one of each family, and the operations they stand for. -/
def Obligations.TraceWordsDecode : Prop :=
  decode [0x00000024] = .ok .rdTcsr3 ∧ decode [0x40000000, 0x44000000] = .ok (.wrTcsr0 0x44000000)
    ∧ decode [0x4000002C, 0x00000032] = .ok (.wrTicr3 50) ∧ decode [0x00000050] = .ok .rdTdr4
    ∧ decode [0x40000018, 0x00000011] = .ok (.wrTisr 0x11) ∧ decode [0x0000001C] = .ok .rdWtcr
    ∧ decode [0x00000044] = .ok (.rdUnknown 0x44) ∧ decode [0x40000038, 0xFFFFFFFF] = .ok (.wrUnknown 0x38 0xFFFFFFFF)
    ∧ decode [0x80000001] = .ok .reset ∧ decode [0x8000000B] = .ok .expire3

/-- R70, R72: on word-aligned offsets the table and the arithmetic form of the offset decode are one function. -/
def Obligations.OffsetDecodeIsArithmetic : Prop :=
  ∀ off, off % 4 = 0 → decodeOffset off = decodeOffsetArith off

/-- R70, R72, R79: a read or write at a word-aligned offset is the access to the register of the map that stands there,
and the unknown-offset operation where none does. -/
def Obligations.AccessDecodesToTheRegisterOfTheMap : Prop :=
  ∀ off : BitVec 30, off.toNat % 4 = 0 → ∀ v : Word,
    (∀ r : Reg, r.offset = off.toNat →
      decode [selector 0 off] = .ok (.rd r) ∧ decode [selector 1 off, v] = .ok (.wr r v))
    ∧ ((∀ r : Reg, r.offset ≠ off.toNat) →
      decode [selector 0 off] = .ok (.rdUnknown off) ∧ decode [selector 1 off, v] = .ok (.wrUnknown off v))

/-! ### The step -/

/-- R10, R58, R126 (decision D2; how operations are offered is log entry 1). When the words offered first decode to an
operation, and no channel is due or the operation is one that R126 enables all the same (CONFIGURE, RESET, RESTORE, or an
EXPIRE of a due channel), the step performs exactly that operation, in the state with its words taken off the list. -/
def Obligations.StepRunsTheDecodedOperation : Prop :=
  ∀ s ws rest i, s.inputs = ws :: rest → decode ws = .ok i →
    (NoneDue s ∨ (waitsForDue i = false ∧ ∀ k, i = .expire k → s.due k = true)) →
    step s = exec i { s with inputs := rest }

/-- R61, R126, R132 (decisions D2, D24; the lowest channel first is log entry 2). While a channel is due and the request
offered first, if any, is none that R126 enables in that state (no words of an operation, an operation that waits, or an
EXPIRE of a channel that is not due), the step is the lowest due channel's expiration: it completes, the offered requests
wait, and time stands. -/
def Obligations.OwedExpirationComesFirst : Prop :=
  ∀ s k, s.due k = true → (∀ j, j < k → s.due j = false) →
    (∀ ws rest i, s.inputs = ws :: rest → decode ws = .ok i →
      waitsForDue i = true ∨ ∃ j, i = .expire j ∧ s.due j = false) →
    step s = exec (.expire k) s ∧ ∃ t, step s = .next t ∧ t.inputs = s.inputs ∧ t.now = s.now

/-- The model's choice, log entry 3 (R132: "The block never halts by itself"). With nothing offered and nothing owed
the step changes nothing. -/
def Obligations.NothingOfferedWaits : Prop := ∀ s, s.inputs = [] → NoneDue s → step s = .next s

/-- R126 (decision D2): only enabled operations take place. -/
def Obligations.OnlyEnabledOperationsTakePlace : Prop :=
  ∀ i s t, exec i s = .next t →
    (waitsForDue i = true → NoneDue s)
    ∧ (∀ k, i = .expire k → (s.chan k).armed = true ∧ (s.chan k).deadlineNs ≤ s.now)
    ∧ (∀ d, i = .advance d → 0 < d ∧ ∀ k, (s.chan k).armed = true → s.now + d ≤ (s.chan k).deadlineNs)

/-- R53, R57 (decisions D6, D8; the boundary as a function is log entry 13). An access at an offset that is no multiple of
4, or at or beyond `REGION_SIZE`, is no operation of the block: offered all the same, it is refused by name. The boundary
turns away every access of another width than 4 bytes, at such an offset: the whole state stays as it was. It delivers
every other access, after the requests already offered, as words that decode to the read or write at its offset. -/
def Obligations.AccessesTheCoreNeverSeesAreRefused : Prop :=
  (∀ s sel ops rest, s.inputs = (sel :: ops) :: rest → NoneDue s → (selClass sel = 0 ∨ selClass sel = 1) →
    (selField sel).toNat % 4 ≠ 0 → step s = .refused .rejectedAtBoundary)
  ∧ (∀ s off v, NoneDue s → s.cfg.regionSize.val ≤ off.toNat →
    exec (.rdUnknown off) s = .refused .beyondRegion ∧ exec (.wrUnknown off v) s = .refused .beyondRegion)
  ∧ (∀ (a : BusAccess) s, (a.bytes ≠ 4 ∨ a.off % 4 ≠ 0 ∨ s.cfg.regionSize.val ≤ a.off) →
    (present a s).1 = s ∧ (present a s).2.isSome = true)
  ∧ (∀ (a : BusAccess) s, a.bytes = 4 → a.off % 4 = 0 → a.off < s.cfg.regionSize.val →
    present a s = ({ s with inputs := s.inputs ++ [accessWords a] }, none)
      ∧ decode (accessWords a) = .ok (if a.write then decodeWrite (BitVec.ofNat 30 a.off) a.data
          else decodeRead (BitVec.ofNat 30 a.off)))

/-! ### Conversions -/

/-- R101: `count_to_ns`, and that its largest result stays below `2^63` at every tick the configuration admits. -/
def Obligations.CountToNanoseconds : Prop :=
  ∀ (c : Config) (count : Word) (d : Nat), 1 ≤ d → d ≤ 256 →
    countToNs c.nsPerTick count d = (count.toNat : Int) * c.nsPerTick * d
    ∧ countToNs c.nsPerTick 0 d = 0
    ∧ countToNs c.nsPerTick count d ≤ 4294967295 * c.nsPerTick * 256
    ∧ (4294967295 * c.nsPerTick * 256 : Int) < 2 ^ 63

/-- R103 (c): the round trip of a count through nanoseconds, for every count and every divisor. -/
def Obligations.CountRoundTrip : Prop :=
  ∀ (c : Config) (count : Word) (d : Nat), 1 ≤ d → d ≤ 256 →
    nsToCount c.nsPerTick (countToNs c.nsPerTick count d) d = count

/-- R103 (b), (d): the two truncating divisions are one by the product, and converting back and forth loses the
sub-count remainder, where the quotient fits 32 bits. -/
def Obligations.NanosecondsRoundDown : Prop :=
  ∀ (c : Config) (ns d : Nat), 1 ≤ d → d ≤ 256 → ns / (c.nsPerTick * d) < 2 ^ 32 →
    (nsToCount c.nsPerTick ns d).toNat = ns / (c.nsPerTick * d)
    ∧ countToNs c.nsPerTick (nsToCount c.nsPerTick ns d) d ≤ ns
    ∧ (countToNs c.nsPerTick (nsToCount c.nsPerTick ns d) d = ns ↔ c.nsPerTick * d ∣ ns)

/-! ### Reads -/

/-- R55: no read changes the block's state; a register's read emits no diagnostic, an unknown offset's emits one. The
reads answer (RD TCSR0..4, RD TICR0..4, RD TDR0..4, RD TISR, RD WTCR and RD UNKNOWN). -/
def Obligations.ReadsChangeNothing : Prop :=
  (∀ r s, NoneDue s → ∃ v, exec (.rd r) s = .next { s with resp := some (.data v) })
  ∧ (∀ off s, NoneDue s → off.toNat < s.cfg.regionSize.val →
    exec (.rdUnknown off) s =
      .next { s with resp := some (.data 0), diags := s.diags ++ [.unknownOffsetRead] })

/-- R140: RD TCSR0..4 answer the stored control register and write nothing. -/
def Obligations.ReadControl : Prop :=
  ∀ k s, NoneDue s → exec (.rd (.tcsr k)) s = .next { s with resp := some (.data (s.chan k).control) }

/-- R150: RD TICR0..4 answer the reload register: the last value written, or 0 after RESET (and after CONFIGURE); no
operation but WR TICRi, those two and RESTORE changes it. -/
def Obligations.ReadReload : Prop :=
  (∀ k, decode [selector 0 (BitVec.ofNat 30 (Reg.ticr k).offset)] = .ok (.rd (.ticr k)))
  ∧ (∀ k s, NoneDue s → exec (.rd (.ticr k)) s = .next { s with resp := some (.data (s.chan k).reload) })
  ∧ (∀ k v s t, exec (.wr (.ticr k) v) s = .next t → NoneDue t →
    exec (.rd (.ticr k)) t = .next { t with resp := some (.data v) })
  ∧ (∀ k s t, exec .reset s = .next t → exec (.rd (.ticr k)) t = .next { t with resp := some (.data 0) })
  ∧ (∀ k i s t, exec i s = .next t → (∀ v, i ≠ .wr (.ticr k) v) → i ≠ .reset → i ≠ .configure →
    (∀ p, i ≠ .restore p) → (t.chan k).reload = (s.chan k).reload)

/-- R153, R154 (a), (b) (the low 32 bits are decision D10): RD TDR0..4 answer the whole counts left of the time to the
deadline on a running channel, and of the cached rest on a stopped one. -/
def Obligations.ReadCounter : Prop :=
  ∀ k s, NoneDue s →
    ((s.chan k).armed = true → running (s.chan k).control = true →
      exec (.rd (.tdr k)) s = .next { s with resp := some (.data (BitVec.ofNat 32
        (((s.chan k).deadlineNs - s.now).toNat / (s.npt * (((s.chan k).control &&& 0xFF).toNat + 1))))) })
    ∧ (0 ≤ (s.chan k).remainingNs → running (s.chan k).control = false →
      exec (.rd (.tdr k)) s = .next { s with resp := some (.data (BitVec.ofNat 32
        ((s.chan k).remainingNs.toNat / (s.npt * (((s.chan k).control &&& 0xFF).toNat + 1))))) })

/-- R154 (f): between two reads of a running channel with no write and no expiry between them the count does not rise,
where it fits 32 bits. -/
def Obligations.RunningCounterNeverRises : Prop :=
  ∀ k s d t v w a b, (s.chan k).armed = true → running (s.chan k).control = true →
    ((s.chan k).deadlineNs - s.now).toNat / (s.npt * prescaleDivisor (s.chan k).control) < 2 ^ 32 →
    exec (.rd (.tdr k)) s = .next a → a.resp = some (.data v) →
    exec (.advance d) a = .next t → exec (.rd (.tdr k)) t = .next b → b.resp = some (.data w) → w.toNat ≤ v.toNat

/-- R160: RD TISR answers the latches and does not clear them. -/
def Obligations.ReadStatus : Prop :=
  ∀ s, NoneDue s → exec .rdTisr s = .next { s with resp := some (.data s.tisr) }

/-- R163: RD WTCR, a read of offset 0x1C, answers the stored word and writes nothing; after RESET that is 0x400. -/
def Obligations.ReadWatchdog : Prop :=
  decode [0x0000001C] = .ok .rdWtcr
  ∧ (∀ s, NoneDue s → exec .rdWtcr s = .next { s with resp := some (.data s.wtcr) })
  ∧ (∀ s t, exec .reset s = .next t → exec .rdWtcr t = .next { t with resp := some (.data 0x00000400) })

/-- R165: RD UNKNOWN, at a word-aligned offset below `REGION_SIZE` that names no register, answers 0 with a diagnostic
of the class GUEST_ERROR and writes nothing. -/
def Obligations.ReadUnknownOffset : Prop :=
  causeClass .unknownOffsetRead = .guestError
  ∧ ∀ (off : BitVec 30) s, off.toNat % 4 = 0 → off.toNat < s.cfg.regionSize.val → (∀ r : Reg, r.offset ≠ off.toNat) →
    decode [selector 0 off] = .ok (.rdUnknown off)
    ∧ (NoneDue s → exec (.rdUnknown off) s =
        .next { s with resp := some (.data 0), diags := s.diags ++ [.unknownOffsetRead] })

/-! ### WR TCSRi -/

/-- R141, R142 (bits 31 and 28 are decision D9): WR TCSR0..4 complete unless they stop a channel whose deadline has
passed; the stored value, the diagnostics, and everything the write leaves alone. -/
def Obligations.ControlWriteStores : Prop :=
  ∀ k v s, NoneDue s → (Disables k v s → s.now < (s.chan k).deadlineNs) →
    ∃ t, exec (.wr (.tcsr k) v) s = .next t
      ∧ (t.chan k).control = ((s.chan k).control &&& 0x02000000) ||| (v &&& 0xF80000FF)
      ∧ (t.chan k).reload = (s.chan k).reload
      ∧ t.diags = s.diags ++ (if v &&& 0x01FFFF00 ≠ 0 then [.reservedBits] else [])
          ++ (if v &&& 0x02000000 ≠ 0 then [.readonlyBit] else [])
      ∧ OnlyChannel k s t

/-- R143, R144: the eight timing cases of WR TCSR0..4, `fresh` being the duration of the reload at the written divisor. -/
def Obligations.ControlWriteTiming : Prop :=
  ∀ k v s t, exec (.wr (.tcsr k) v) s = .next t → (s.chan k).armed = running (s.chan k).control →
    let fresh : Int := (s.chan k).reload.toNat * s.npt * ((v &&& 0xFF).toNat + 1)
    let crst := anySet v maskCRST
    let old := s.chan k
    let new := t.chan k
    new.armed = running v
    ∧ (running old.control = false → running v = false → crst = false →
        new.remainingNs = old.remainingNs ∧ new.deadlineNs = old.deadlineNs)
    ∧ (running old.control = false → running v = false → crst = true →
        new.remainingNs = fresh ∧ new.deadlineNs = old.deadlineNs)
    ∧ (running old.control = false → running v = true → crst = false →
        new.remainingNs = old.remainingNs ∧ new.deadlineNs = s.now + old.remainingNs)
    ∧ (running old.control = false → running v = true → crst = true →
        new.remainingNs = fresh ∧ new.deadlineNs = s.now + fresh)
    ∧ (running old.control = true → running v = true → crst = false →
        new.remainingNs = old.remainingNs ∧ new.deadlineNs = old.deadlineNs)
    ∧ (running old.control = true → running v = true → crst = true →
        new.remainingNs = fresh ∧ new.deadlineNs = s.now + fresh)
    ∧ (running old.control = true → running v = false →
        new.remainingNs = old.deadlineNs - s.now ∧ new.deadlineNs = old.deadlineNs)

/-- R146, R104: a control write moves its line only when interrupt-enable toggles, then to interrupt-enable and latch;
so, from a state whose lines are right, the line is right afterwards, and the latches are untouched. -/
def Obligations.ControlWriteInterruptLine : Prop :=
  ∀ k v s t, exec (.wr (.tcsr k) v) s = .next t →
    (anySet v maskIE = anySet (s.chan k).control maskIE → (t.chan k).irq = (s.chan k).irq)
    ∧ (anySet v maskIE ≠ anySet (s.chan k).control maskIE →
        (t.chan k).irq = (anySet v maskIE && s.tisr.getLsbD k.val))
    ∧ t.tisr = s.tisr

/-- R141 steps 1 and 2, R203: reserved and read-only bits of a written control word have no effect but their diagnostics:
the masked word does the same, and stops where it stops. -/
def Obligations.ReservedAndReadonlyBitsAreIgnored : Prop :=
  ∀ k v s,
    (∀ t, exec (.wr (.tcsr k) v) s = .next t →
      ∃ u, exec (.wr (.tcsr k) (v &&& 0xFC0000FF)) s = .next u ∧ u.diags = s.diags ∧ { t with diags := s.diags } = u)
    ∧ (∀ f, exec (.wr (.tcsr k) v) s = .fault f → exec (.wr (.tcsr k) (v &&& 0xFC0000FF)) s = .fault f)

/-- R201, R203: two diagnostics in one operation only from WR TCSRi, A1 before A2; every other operation emits at most
one. A diagnostic of WR WTCR is of the class UNIMPLEMENTED, every other one of the class GUEST_ERROR (the class names are
decision D17). That the list is kept and only appended to, across RESET and CONFIGURE too, is the model's choice (log
entry 6; decision D17: R202 lets a model drop diagnostics). -/
def Obligations.DiagnosticsOfOneOperation : Prop :=
  ∀ i s t, exec i s = .next t → ∃ ds, t.diags = s.diags ++ ds
    ∧ (ds.length ≤ 1 ∨ ∃ k v, i = .wr (.tcsr k) v ∧ ds = [.reservedBits, .readonlyBit])
    ∧ ∀ c ∈ ds, ((∃ v, i = .wrWtcr v) → causeClass c = .unimplemented)
      ∧ ((∀ v, i ≠ .wrWtcr v) → causeClass c = .guestError)

/-- R107, R201, R206 (a fault is decision D22, its class FATAL decision D17): the fatal assertion is raised exactly by a
WR TCSRi that stops a running channel whose remainder is not strictly positive. -/
def Obligations.FatalAssertionExactly : Prop :=
  (∀ f, causeClass (faultCause f) = .fatal)
  ∧ ∀ i s f, exec i s = .fault f ↔
    ∃ k v, i = .wr (.tcsr k) v ∧ f = .internalInvariantViolation k ∧ NoneDue s ∧ Disables k v s
      ∧ (s.chan k).deadlineNs - s.now ≤ 0

/-! ### The other writes -/

/-- R151: WR TICR0..4 store the value, recompute the duration at the divisor of this write, restart a running channel
from `now`, and write nothing else. -/
def Obligations.ReloadWrite : Prop :=
  (∀ k v, decode [selector 1 (BitVec.ofNat 30 (Reg.ticr k).offset), v] = .ok (.wr (.ticr k) v))
  ∧ ∀ k v s, NoneDue s →
    let fresh : Int := v.toNat * s.npt * (((s.chan k).control &&& 0xFF).toNat + 1)
    ∃ t, exec (.wr (.ticr k) v) s = .next t
      ∧ (t.chan k).control = (s.chan k).control ∧ (t.chan k).irq = (s.chan k).irq
      ∧ (t.chan k).reload = v ∧ (t.chan k).remainingNs = fresh
      ∧ (running (s.chan k).control = true → (t.chan k).deadlineNs = s.now + fresh ∧ (t.chan k).armed = true)
      ∧ (running (s.chan k).control = false →
          (t.chan k).deadlineNs = (s.chan k).deadlineNs ∧ (t.chan k).armed = (s.chan k).armed)
      ∧ OnlyChannel k s t ∧ t.diags = s.diags

/-- R155: WR TDR0..4 are ignored, whatever the value and the channel's state, with a diagnostic of the class GUEST_ERROR. -/
def Obligations.CounterWriteIgnored : Prop :=
  causeClass .readonlyRegister = .guestError
  ∧ (∀ k v, decode [selector 1 (BitVec.ofNat 30 (Reg.tdr k).offset), v] = .ok (.wr (.tdr k) v))
  ∧ ∀ k v s, NoneDue s → exec (.wr (.tdr k) v) s = .next { s with diags := s.diags ++ [.readonlyRegister] }

/-- R161 (the eager recomputation is decision D1): WR TISR clears the latches written with 1, drives every line to its
level, and leaves everything else. -/
def Obligations.StatusWriteClears : Prop :=
  ∀ v s, NoneDue s → ∃ t, exec (.wrTisr v) s = .next t
    ∧ t.tisr = s.tisr &&& ~~~v
    ∧ (∀ i, t.chan i = { s.chan i with
        irq := anySet (s.chan i).control maskIE && (s.tisr.getLsbD i.val && !v.getLsbD i.val) })
    ∧ t.wtcr = s.wtcr ∧ t.now = s.now ∧ SameOutside s t ∧ t.diags = s.diags

/-- R162 (a), (b), (c), (e), (f) (lines by decision D1): the laws of write one to clear. -/
def Obligations.ClearLaws : Prop :=
  (∀ s, NoneDue s → BlockInv s → exec (.wrTisr 0) s = .next s)
  ∧ (∀ s t, exec (.wrTisr s.tisr) s = .next t → t.tisr = 0)
  ∧ (∀ v s t, exec (.wrTisr v) s = .next t → exec (.wrTisr v) t = .next t)
  ∧ (∀ v s t n, exec (.wrTisr v) s = .next t → t.tisr.getLsbD n = true → s.tisr.getLsbD n = true)
  ∧ (∀ k s t, exec (.wrTisr (BitVec.ofNat 32 (2 ^ k))) s = .next t →
      ∀ n, n < 32 → t.tisr.getLsbD n = (s.tisr.getLsbD n && decide (n ≠ k)))

/-- R164: WR WTCR, a write of offset 0x1C, stores every bit with a diagnostic of the class UNIMPLEMENTED; no channel, latch or
line changes, whatever the value; the value reads back. -/
def Obligations.WatchdogWrite : Prop :=
  causeClass .unimplemented = .unimplemented
  ∧ (∀ v, decode [0x4000001C, v] = .ok (.wrWtcr v))
  ∧ (∀ v s, NoneDue s → exec (.wrWtcr v) s = .next { s with wtcr := v, diags := s.diags ++ [.unimplemented] })
  ∧ ∀ v s t, exec (.wrWtcr v) s = .next t → exec .rdWtcr t = .next { t with resp := some (.data v) }

/-- R166: WR UNKNOWN is ignored with a diagnostic of the class GUEST_ERROR, at the offsets of R165. -/
def Obligations.WriteUnknownOffset : Prop :=
  causeClass .unknownOffsetWrite = .guestError
  ∧ ∀ (off : BitVec 30) v s, off.toNat % 4 = 0 → off.toNat < s.cfg.regionSize.val → (∀ r : Reg, r.offset ≠ off.toNat) →
    decode [selector 1 off, v] = .ok (.wrUnknown off v)
    ∧ (NoneDue s → exec (.wrUnknown off v) s = .next { s with diags := s.diags ++ [.unknownOffsetWrite] })

/-- R50, R71, R72: an access below `REGION_SIZE` is the port's `RegRead` or `RegWrite` at its offset. -/
def Obligations.AccessIsThePortsFunction : Prop :=
  ∀ (off : BitVec 30) s, NoneDue s → off.toNat % 4 = 0 → off.toNat < s.cfg.regionSize.val →
    (∃ ds, exec (decodeRead off) s =
      .next { s with resp := some (.data (regRead off.toNat s)), diags := s.diags ++ ds })
    ∧ ∀ v, exec (decodeWrite off v) s = regWrite off.toNat v s

/-- R51, R200: from a state with the invariants of 10_state.md, with no channel due, every access below `REGION_SIZE`
completes. -/
def Obligations.NoAccessFails : Prop :=
  ∀ (off : BitVec 30) v s, BlockInv s → NoneDue s → off.toNat < s.cfg.regionSize.val →
    (∃ t, exec (decodeRead off) s = .next t) ∧ ∃ t, exec (decodeWrite off v) s = .next t

/-! ### Expiration and time -/

/-- R125 (decisions D2, D18): ADVANCE completes exactly when no channel is due and no armed deadline is passed, and it
changes `now` and nothing else. -/
def Obligations.AdvanceMovesOnlyTime : Prop :=
  ∀ (d : Nat) s, 0 < d → NoneDue s →
    ((∀ k, (s.chan k).armed = true → s.now + d ≤ (s.chan k).deadlineNs) →
      exec (.advance d) s = .next { s with now := s.now + d })
    ∧ ((∃ k, (s.chan k).armed = true ∧ (s.chan k).deadlineNs < s.now + d) →
      exec (.advance d) s = .refused .passesDeadline)

/-- R122 (remaining_ns := 0 by 90_conflicts.md C3): EXPIRE 0..4 of a due one-shot channel latches, clears count-enable and
count-active, leaves nothing of the run, and drives the line; nothing else changes. -/
def Obligations.ExpireOneShot : Prop :=
  ∀ k s, s.due k = true → running (s.chan k).control = true → anySet (s.chan k).control maskPERIODIC = false →
    ∃ t, exec (.expire k) s = .next t
      ∧ t.tisr = s.tisr ||| BitVec.ofNat 32 (2 ^ k.val)
      ∧ t.chan k =
          { s.chan k with
            control := (s.chan k).control &&& 0xBDFFFFFF
            remainingNs := 0
            armed := false
            irq := anySet (s.chan k).control maskIE }
      ∧ (∀ j, j ≠ k → t.chan j = s.chan j) ∧ t.wtcr = s.wtcr ∧ t.now = s.now ∧ SameOutside s t ∧ t.diags = s.diags

/-- R122, R130: EXPIRE 0..4 of a due periodic channel latches and re-arms with the reload and divisor current at the
expiry; at its deadline, the next deadline lies exactly one period after it. -/
def Obligations.ExpirePeriodic : Prop :=
  ∀ k s, s.due k = true → running (s.chan k).control = true → anySet (s.chan k).control maskPERIODIC = true →
    let period : Int := (s.chan k).reload.toNat * s.npt * (((s.chan k).control &&& 0xFF).toNat + 1)
    ∃ t, exec (.expire k) s = .next t
      ∧ t.tisr = s.tisr ||| BitVec.ofNat 32 (2 ^ k.val)
      ∧ t.chan k =
          { s.chan k with
            remainingNs := period
            deadlineNs := s.now + period
            armed := true
            irq := anySet (s.chan k).control maskIE }
      ∧ (s.now = (s.chan k).deadlineNs → (t.chan k).deadlineNs = (s.chan k).deadlineNs + period)
      ∧ (∀ j, j ≠ k → t.chan j = s.chan j) ∧ t.wtcr = s.wtcr ∧ t.now = s.now ∧ SameOutside s t ∧ t.diags = s.diags

/-- R129, R126: the stale-callback guard: EXPIRE 0..4 of a due channel whose count-enable is 0 only clears `armed`; of a
channel that is not due it is not enabled. -/
def Obligations.ExpireStaleOrNotDue : Prop :=
  (∀ k s, s.due k = true → running (s.chan k).control = false →
    ∃ t, exec (.expire k) s = .next t ∧ t.chan k = { s.chan k with armed := false } ∧ OnlyChannel k s t
      ∧ t.diags = s.diags)
  ∧ ∀ k s, s.due k = false → exec (.expire k) s = .refused (.notDue k)

/-- R123 (decision D12): expirations due at the same instant commute. -/
def Obligations.ExpirationsCommute : Prop :=
  ∀ j k s, j ≠ k → s.due j = true → s.due k = true →
    ∃ a b t, exec (.expire j) s = .next a ∧ exec (.expire k) a = .next t
      ∧ exec (.expire k) s = .next b ∧ exec (.expire j) b = .next t

/-- R131: a second expiration before the latch is cleared leaves TISR, and the line that agrees with it, as they were. -/
def Obligations.ExpirationsAreNotCounted : Prop :=
  ∀ k s t, exec (.expire k) s = .next t → s.tisr.getLsbD k.val = true →
    t.tisr = s.tisr ∧ ((s.chan k).irq = anySet (s.chan k).control maskIE → (t.chan k).irq = (s.chan k).irq)

/-- R124, R255 (decision D11): a livelocked channel's expiration leaves it livelocked at the same instant, and meanwhile
no bus operation, SNAPSHOT or ADVANCE is enabled; RESET ends it. -/
def Obligations.ZeroPeriodLivelock : Prop :=
  ∀ k s, Livelocked k s →
    (∃ t, exec (.expire k) s = .next t ∧ Livelocked k t ∧ t.now = s.now)
    ∧ (∀ i t, waitsForDue i = true → exec i s ≠ .next t)
    ∧ ∃ t, exec .reset s = .next t ∧ NoneDue t

/-- R124, R256 (decision D11): enabling a stopped channel that holds a zero duration makes it due at once. -/
def Obligations.ZeroDurationIsDueAtOnce : Prop :=
  ∀ k v s t, exec (.wr (.tcsr k) v) s = .next t → running (s.chan k).control = false → running v = true →
    anySet v maskCRST = false → (s.chan k).remainingNs = 0 → t.due k = true

/-- R26: a latch rises only by its own channel's EXPIRE (or by loading a record), and falls only by WR TISR, RESET,
CONFIGURE or RESTORE. -/
def Obligations.LatchRisesOnlyByExpiration : Prop :=
  ∀ i s t k, exec i s = .next t →
    (s.tisr.getLsbD k = false → t.tisr.getLsbD k = true →
      (∃ c : Fin 5, c.val = k ∧ i = .expire c) ∨ ∃ p, i = .restore p)
    ∧ (s.tisr.getLsbD k = true → t.tisr.getLsbD k = false →
      (∃ v, i = .wrTisr v) ∨ i = .reset ∨ i = .configure ∨ ∃ p, i = .restore p)

/-- R34, R35: only ADVANCE moves time, and never backwards; nothing changes the configuration. The same of a step: it
leaves time as it is unless no channel is due and the request offered first is an ADVANCE, whose duration it adds. -/
def Obligations.OnlyAdvanceMovesTime : Prop :=
  (∀ i s t, exec i s = .next t → t.cfg = s.cfg ∧ s.now ≤ t.now ∧ ((∀ d, i ≠ .advance d) → t.now = s.now))
  ∧ ∀ s t, step s = .next t → t.cfg = s.cfg ∧ s.now ≤ t.now
    ∧ (t.now = s.now ∨ ∃ ws rest d, s.inputs = ws :: rest ∧ decode ws = .ok (.advance d) ∧ NoneDue s
        ∧ t.now = s.now + d)

/-! ### Whole runs of software (70_reset_and_hazards.md R252; 95_test_vectors.md S1, S4) -/

/-- R252 steps 1 to 3: prescale written, reload written, channel enabled: the channel is due exactly `count` ticks of the
written divisor after the enabling write, and the counter read then shows `count`. -/
def Obligations.ProgrammedDelayIsExact : Prop :=
  ∀ k v count s a b c, running (s.chan k).control = (s.chan k).armed → running v = false → anySet v maskCRST = false →
    exec (.wr (.tcsr k) v) s = .next a → exec (.wr (.ticr k) count) a = .next b →
    exec (.wr (.tcsr k) (v ||| maskCEN)) b = .next c →
    (c.chan k).armed = true
    ∧ (c.chan k).deadlineNs = s.now + countToNs s.npt count (prescaleDivisor v)
    ∧ ∀ t, exec (.rd (.tdr k)) c = .next t → t.resp = some (.data count)

/-- R106, R107 (the source's property 4, 95_test_vectors.md S4): pause and resume keep the remaining time exactly, however
long the channel is stopped. -/
def Obligations.PauseAndResumeKeepTheRest : Prop :=
  ∀ k v w s a d b c, (s.chan k).armed = true → Disables k v s →
    exec (.wr (.tcsr k) v) s = .next a → exec (.advance d) a = .next b →
    running w = true → anySet w maskCRST = false → exec (.wr (.tcsr k) w) b = .next c →
    (c.chan k).armed = true ∧ (c.chan k).deadlineNs - c.now = (s.chan k).deadlineNs - s.now

/-! ### The host's operations -/

/-- R250, R251, R40 (remaining_ns and deadline_ns are decision D3; keeping the diagnostics is log entry 6): RESET completes in every state, leaves the defaults
whatever the state was, `now` unchanged and nothing due, and a second RESET changes nothing. -/
def Obligations.ResetRestoresDefaults : Prop :=
  ∀ s, ∃ t, exec .reset s = .next t
    ∧ (∀ i, t.chan i = ⟨0x00000005, 0, 0, 0, false, false⟩)
    ∧ t.tisr = 0 ∧ t.wtcr = 0x00000400 ∧ t.now = s.now
    ∧ SameOutside s t ∧ t.diags = s.diags ∧ NoneDue t ∧ exec .reset t = .next t

/-- R180 (decision D4): CONFIGURE leaves the block in exactly the state RESET leaves it in. -/
def Obligations.ConfigureIsPowerOnReset : Prop :=
  ∀ s, exec .configure s = exec .reset s ∧ ∃ t, exec .configure s = .next t ∧ ∀ i, (t.chan i).armed = false

/-- R182: SNAPSHOT completes while no channel is due, answers the record of the current state and changes nothing. -/
def Obligations.SnapshotAnswersTheState : Prop :=
  ∀ s, NoneDue s → ∃ p : Snapshot, exec .snapshot s = .next { s with resp := some (.record p) }
    ∧ (∀ i : Fin 5, p.ch[i] = ⟨(s.chan i).armed, (s.chan i).deadlineNs, (s.chan i).remainingNs, (s.chan i).control,
        (s.chan i).reload⟩)
    ∧ p.interruptStatus = s.tisr ∧ p.watchdogControl = s.wtcr

/-- R184 (decision D14): RESTORE of a valid record completes in every state, loads it and drives every line to its level;
a record that is not valid is refused. -/
def Obligations.RestoreLoadsValidRecords : Prop :=
  ∀ (p : Snapshot) s,
    let valid := (∀ i : Fin 5, p.ch[i].control &&& 0x07FFFF00 = 0
      ∧ p.ch[i].armed = running p.ch[i].control
      ∧ 0 ≤ p.ch[i].remainingNs ∧ p.ch[i].remainingNs ≤ 4294967295 * s.npt * 256)
      ∧ p.interruptStatus &&& 0xFFFFFFE0 = 0
    (valid → ∃ t, exec (.restore p) s = .next t
      ∧ (∀ i : Fin 5, t.chan i = ⟨p.ch[i].control, p.ch[i].reload, p.ch[i].remainingNs, p.ch[i].deadlineNs,
          p.ch[i].armed, anySet p.ch[i].control maskIE && p.interruptStatus.getLsbD i.val⟩)
      ∧ t.tisr = p.interruptStatus ∧ t.wtcr = p.watchdogControl ∧ t.now = s.now
      ∧ SameOutside s t ∧ t.diags = s.diags)
    ∧ (¬valid → exec (.restore p) s = .refused .invalidSnapshot)

/-- R185: restoring a snapshot of a state with the invariants and its durations in range, in any state of the same configuration at the same `now`,
gives the block's state again, lines included. -/
def Obligations.SnapshotRoundTrip : Prop :=
  ∀ s a p u, BlockInv s → (∀ i, (s.chan i).remainingNs ≤ maxDuration s.npt) → exec .snapshot s = .next a → a.resp = some (.record p) →
    u.now = s.now → u.cfg = s.cfg → ∃ t, exec (.restore p) u = .next t ∧ SameBlock s t

/-! ### Isolation -/

/-- R167: an operation on channel `k` (RD and WR of TCSRk, TICRk, TDRk, and EXPIRE k) changes no other channel, no other
channel's line and no other channel's latch, nor the watchdog word. -/
def Obligations.ChannelOperationsStayInTheirChannel : Prop :=
  ∀ k i s t, ((∃ v, i = .wr (.tcsr k) v) ∨ (∃ v, i = .wr (.ticr k) v) ∨ (∃ v, i = .wr (.tdr k) v) ∨ i = .rd (.tcsr k)
      ∨ i = .rd (.ticr k) ∨ i = .rd (.tdr k) ∨ i = .expire k) → exec i s = .next t →
    (∀ j, j ≠ k → t.chan j = s.chan j ∧ t.tisr.getLsbD j.val = s.tisr.getLsbD j.val) ∧ t.wtcr = s.wtcr

/-- R167: what an operation on channel `k` leaves in channel `k` depends on that channel, its latch, the time and the
tick alone: two states that agree on those agree afterwards, whatever the other channels hold. -/
def Obligations.ChannelDependsOnItselfAlone : Prop :=
  ∀ k i s s' t t', ((∃ v, i = .wr (.tcsr k) v) ∨ (∃ v, i = .wr (.ticr k) v) ∨ i = .expire k) →
    s'.chan k = s.chan k → s'.tisr.getLsbD k.val = s.tisr.getLsbD k.val → s'.now = s.now → s'.cfg = s.cfg →
    exec i s = .next t → exec i s' = .next t' →
    t'.chan k = t.chan k ∧ t'.tisr.getLsbD k.val = t.tisr.getLsbD k.val

/-! ### Invariants -/

/-- R36, R37, R33, R38, R39, R29 (lines by decisions D1 and D14): whatever operation a step performs, the invariants of
10_state.md hold after it if they hold before it. -/
def Obligations.StepKeepsTheBlockInvariants : Prop := ∀ s t, BlockInv s → step s = .next t → BlockInv t

/-- R29, R105, R126 (decision D2): every operation keeps durations within what a count can stand for, every deadline
between 0 and the longest duration from now, and pending ones not before `now`; a RESTORE, of a record whose deadlines
are so (log entry 14). -/
def Obligations.OperationsKeepTheTimeInvariants : Prop :=
  ∀ i s t, BlockInv s → TimeInv s → (∀ p, i = .restore p → TimelyRecord p s) → exec i s = .next t → TimeInv t

/-- R40, R36 to R39, R29: the state after reset has the spec's reset values (its `now` is log entry 8), nothing is due in
it, and the invariants hold in it. -/
def Obligations.ResetStateHasTheInvariants : Prop :=
  (∀ i, (State.reset.chan i).control = 0x00000005 ∧ (State.reset.chan i).reload = 0
    ∧ (State.reset.chan i).armed = false ∧ (State.reset.chan i).irq = false)
  ∧ State.reset.tisr = 0 ∧ State.reset.wtcr = 0x00000400
  ∧ NoneDue State.reset ∧ BlockInv State.reset ∧ TimeInv State.reset

/-- R107, R127, R206: from a state with the invariants no step raises the fatal assertion. -/
def Obligations.NoStepRaisesTheFatalAssertion : Prop := ∀ s, BlockInv s → NoFault (step s)

/-- R105 (under the environment's guarantee, decision D19): every time of a state with the invariants, stale deadlines
too, fits a signed 64-bit integer, so the model's unbounded times agree with the spec's. -/
def Obligations.TimesFitSixtyFourBits : Prop :=
  ∀ s, TimeInv s → TimeRoom s →
    fitsInt64 s.now = true
    ∧ ∀ i, fitsInt64 (s.chan i).remainingNs = true ∧ fitsInt64 (s.now + (s.chan i).remainingNs) = true
      ∧ fitsInt64 (s.chan i).deadlineNs = true
end

