-- ==== Sys2Proof/Laws/Decode.lean ====
section
/-! SUPPORT. The lemmas of the decoder's and encoder's parts: selector fields, offsets, 64-bit operands, records. -/

namespace Sys2Proof

@[simp] theorem selClass_selector (c : BitVec 2) (f : BitVec 30) : selClass (selector c f) = c := by
  apply BitVec.eq_of_getLsbD_eq
  intro k hk
  simp only [selClass, selector, BitVec.getLsbD_extractLsb', BitVec.getLsbD_append]
  simp [hk]

@[simp] theorem selField_selector (c : BitVec 2) (f : BitVec 30) : selField (selector c f) = f := by
  apply BitVec.eq_of_getLsbD_eq
  intro k hk
  simp only [selField, selector, BitVec.getLsbD_extractLsb', BitVec.getLsbD_append]
  simp [hk]

/-- A selector is its class and its field. -/
@[simp] theorem selector_fields (sel : Word) : selector (selClass sel) (selField sel) = sel := by
  apply BitVec.eq_of_getLsbD_eq
  intro k hk
  simp only [selClass, selField, selector, BitVec.getLsbD_append, BitVec.getLsbD_extractLsb']
  by_cases h : k < 30
  · simp [h]
  · have h2 : k - 30 < 2 := by omega
    have h3 : 30 + (k - 30) = k := by omega
    simp [h, h2, h3]

/-- The map of R70 is read back by the decode of R72. -/
theorem decodeOffset_offset (r : Reg) : decodeOffset r.offset = some r := by
  cases r with
  | tcsr i | ticr i | tdr i => match i with | 0 | 1 | 2 | 3 | 4 => rfl
  | tisr => rfl
  | wtcr => rfl

/-- An offset that decodes to a register is that register's offset. -/
theorem offset_of_decodeOffset {off : Nat} {r : Reg} (h : decodeOffset off = some r) : r.offset = off := by
  unfold decodeOffset at h
  split at h <;> first | (cases h; rfl) | cases h

/-- An offset decodes to nothing exactly when it names no register. -/
theorem decodeOffset_eq_none (off : Nat) : decodeOffset off = none ↔ namesNoRegister off = true := by
  constructor
  · intro h
    simp only [namesNoRegister, List.all_eq_true, bne_iff_ne]
    rintro r - rfl
    rw [decodeOffset_offset] at h
    cases h
  · intro h
    cases hd : decodeOffset off with
    | none => rfl
    | some r =>
      have hr := offset_of_decodeOffset hd
      have hall : r ∈ Reg.all := by
        cases r with
        | tcsr i | ticr i | tdr i => match i with | 0 | 1 | 2 | 3 | 4 => simp [Reg.all]
        | tisr => simp [Reg.all]
        | wtcr => simp [Reg.all]
      simp only [namesNoRegister, List.all_eq_true, bne_iff_ne] at h
      exact absurd hr (h r hall)

/-- A register's offset is a multiple of 4 below `0x54` (R57, R70). -/
theorem offset_aligned (r : Reg) : r.offset % 4 = 0 ∧ r.offset < 0x54 := by
  cases r with
  | tcsr i | ticr i | tdr i => match i with | 0 | 1 | 2 | 3 | 4 => decide
  | tisr => decide
  | wtcr => decide

@[simp] theorem dword_words (x : BitVec 64) : dword (x.extractLsb' 0 32) (x.extractLsb' 32 32) = x := by
  apply BitVec.eq_of_getLsbD_eq
  intro k hk
  simp only [dword, BitVec.getLsbD_append, BitVec.getLsbD_extractLsb']
  by_cases h : k < 32
  · simp [h]
  · have h2 : k - 32 < 32 := by omega
    have h3 : 32 + (k - 32) = k := by omega
    simp [h, h2, h3]

theorem dwordWords_dword (lo hi : Word) : dwordWords (dword lo hi) = [lo, hi] := by
  have h1 : (dword lo hi).extractLsb' 0 32 = lo := by
    apply BitVec.eq_of_getLsbD_eq
    intro k hk
    simp only [dword, BitVec.getLsbD_append, BitVec.getLsbD_extractLsb']
    simp [hk]
  have h2 : (dword lo hi).extractLsb' 32 32 = hi := by
    apply BitVec.eq_of_getLsbD_eq
    intro k hk
    simp only [dword, BitVec.getLsbD_append, BitVec.getLsbD_extractLsb']
    simp [hk]
  rw [dwordWords, h1, h2]

theorem fitsInt64_iff (t : Int) : fitsInt64 t = true ↔ -(2 ^ 63) ≤ t ∧ t < 2 ^ 63 := by simp [fitsInt64]

theorem toInt_ofInt64 {t : Int} (h : fitsInt64 t = true) : (BitVec.ofInt 64 t).toInt = t := by
  rw [fitsInt64_iff] at h
  rw [BitVec.toInt_ofInt]
  exact Int.bmod_eq_of_le (by omega) (by omega)

theorem fitsInt64_toInt (x : BitVec 64) : fitsInt64 x.toInt = true := by
  rw [fitsInt64_iff]
  have h1 := BitVec.le_toInt x
  have h2 := BitVec.toInt_lt (x := x)
  omega

/-- One channel's words are read back, whatever follows them (R183). -/
theorem decodeChannel_encodeChannel (c : ChannelRecord) (h : c.wellFormed = true) (rest : List Word) :
    decodeChannel (encodeChannel c ++ rest) = some (c, rest) := by
  obtain ⟨a, dl, rm, ct, rl⟩ := c
  simp only [ChannelRecord.wellFormed, Bool.and_eq_true] at h
  cases a <;> simp [encodeChannel, dwordWords, decodeChannel, toInt_ofInt64 h.1, toInt_ofInt64 h.2]

/-- What reads as one channel's words is that channel's words (R183). -/
theorem encodeChannel_of_decodeChannel {ws rest : List Word} {c : ChannelRecord}
    (h : decodeChannel ws = some (c, rest)) : ws = encodeChannel c ++ rest ∧ c.wellFormed = true := by
  unfold decodeChannel at h
  split at h
  · next a dl dh rl rh ct r tail =>
    split at h
    · next ha =>
      simp only [Option.some.injEq, Prod.mk.injEq] at h
      obtain ⟨rfl, rfl⟩ := h
      refine ⟨?_, by simp [ChannelRecord.wellFormed, fitsInt64_toInt]⟩
      obtain rfl | rfl := ha <;> simp [encodeChannel, dwordWords_dword]
    · cases h
  · cases h

theorem length_encodeChannel (c : ChannelRecord) : (encodeChannel c).length = 7 := rfl

theorem length_encodeSnapshot (p : Snapshot) : (encodeSnapshot p).length = 37 := rfl

end Sys2Proof
end

