-- ==== Sys2Proof/Laws/Flags.lean ====
section
/-! SUPPORT. The masks as bits: every test of a field is the test of one bit, and what a control write stores. -/

namespace Sys2Proof.Machine

theorem anySet_twoPow (w : Word) {k : Nat} (hk : k < 32) : anySet w (BitVec.twoPow 32 k) = w.getLsbD k := by
  have hne : BitVec.twoPow 32 k ≠ 0 := by
    intro h
    have := congrArg (fun x => x.getLsbD k) h
    simp [hk] at this
  unfold anySet
  rw [BitVec.and_twoPow]
  cases h : w.getLsbD k
  · simp
  · simpa using hne

theorem anySet_CEN (w : Word) : anySet w maskCEN = w.getLsbD 30 := anySet_twoPow w (k := 30) (by decide)
theorem anySet_IE (w : Word) : anySet w maskIE = w.getLsbD 29 := anySet_twoPow w (k := 29) (by decide)
theorem anySet_PERIODIC (w : Word) : anySet w maskPERIODIC = w.getLsbD 27 := anySet_twoPow w (k := 27) (by decide)
theorem anySet_CRST (w : Word) : anySet w maskCRST = w.getLsbD 26 := anySet_twoPow w (k := 26) (by decide)
theorem anySet_CACT (w : Word) : anySet w maskCACT = w.getLsbD 25 := anySet_twoPow w (k := 25) (by decide)

/-- A channel runs exactly when bit 30 of its control register is set (R25). -/
theorem running_eq (w : Word) : running w = w.getLsbD 30 := anySet_CEN w

theorem latchBit_eq_twoPow (i : Fin 5) : latchBit i = BitVec.twoPow 32 i.val := by
  match i with
  | 0 | 1 | 2 | 3 | 4 => decide

/-- The latch of channel `i` is bit `i` (R26). -/
theorem latched_eq (t : Word) (i : Fin 5) : latched t i = t.getLsbD i.val := by
  rw [latched, latchBit_eq_twoPow, anySet_twoPow t (by omega)]

/-- Setting a latch sets it and leaves the others (R122). -/
theorem latched_setLatch (t : Word) (i j : Fin 5) : latched (setLatch t i) j = (decide (j = i) || latched t j) := by
  simp only [latched_eq, setLatch, latchBit_eq_twoPow, BitVec.getLsbD_or, BitVec.getLsbD_twoPow]
  have h32 : i.val < 32 := by omega
  by_cases h : j = i
  · subst h; simp [h32]
  · have : i.val ≠ j.val := fun e => h (Fin.ext e.symm)
    simp [h, this]

/-- Writing one to clear keeps exactly the latches not written with one (R161). -/
theorem latched_clearLatches (t v : Word) (i : Fin 5) :
    latched (clearLatches t v) i = (latched t i && !v.getLsbD i.val) := by
  have h32 : i.val < 32 := by omega
  simp [latched_eq, clearLatches, h32]

/-- The divisor is in 1..256 (R74). -/
theorem prescaleDivisor_bounds (w : Word) : 1 ≤ prescaleDivisor w ∧ prescaleDivisor w ≤ 256 := by
  have := (w.extractLsb' 0 8).isLt
  unfold prescaleDivisor
  omega

/-- The bits of a masked write: reserved and count-active bits fall out, every other bit stays (R141 steps 1, 2). -/
theorem maskWritten_eq (v : Word) : maskWritten v = v &&& 0xFC0000FF := by
  have h : ∀ a b c : Word, a &&& b &&& c = a &&& (b &&& c) := fun a b c => BitVec.and_assoc a b c
  rw [maskWritten, h]
  rfl

theorem getLsbD_maskWritten (v : Word) (k : Nat) :
    (maskWritten v).getLsbD k = (v.getLsbD k && (0xFC0000FF : Word).getLsbD k) := by
  rw [maskWritten_eq, BitVec.getLsbD_and]

/-- Each stored or acted-on bit of a write passes the masking (R141 steps 1, 2). -/
theorem anySet_maskWritten {v : Word} {k : Nat} (hk : k < 32) (h : (0xFC0000FF : Word).getLsbD k = true) :
    anySet (maskWritten v) (BitVec.twoPow 32 k) = anySet v (BitVec.twoPow 32 k) := by
  rw [anySet_twoPow _ hk, anySet_twoPow _ hk, getLsbD_maskWritten, h, Bool.and_true]

/-- Count-enable is spelled `running` (R25). -/
@[simp] theorem anySet_maskCEN (w : Word) : anySet w maskCEN = running w := rfl

@[simp] theorem running_maskWritten (v : Word) : running (maskWritten v) = running v :=
  anySet_maskWritten (k := 30) (by decide) (by decide)
@[simp] theorem anySet_maskWritten_IE (v : Word) : anySet (maskWritten v) maskIE = anySet v maskIE :=
  anySet_maskWritten (k := 29) (by decide) (by decide)
@[simp] theorem anySet_maskWritten_CRST (v : Word) : anySet (maskWritten v) maskCRST = anySet v maskCRST :=
  anySet_maskWritten (k := 26) (by decide) (by decide)

/-- A field of one bit toggled. -/
@[simp] theorem running_xor (a b : Word) : running (a ^^^ b) = (running a ^^ running b) := by
  simp only [running_eq, BitVec.getLsbD_xor]
@[simp] theorem running_and (a b : Word) : running (a &&& b) = (running a && running b) := by
  simp only [running_eq, BitVec.getLsbD_and]
theorem anySet_xor_IE (a b : Word) : anySet (a ^^^ b) maskIE = (anySet a maskIE ^^ anySet b maskIE) := by
  simp only [anySet_IE, BitVec.getLsbD_xor]
/-- What a control write leaves in the register (R142): bit 25 of the old value, and bits 31:27 and 7:0 of the
written one. -/
def storedControl (old v : Word) : Word := (old &&& maskCACT) ||| (v &&& 0xF80000FF)

theorem getLsbD_storedControl (old v : Word) (k : Nat) :
    (storedControl old v).getLsbD k
      = ((old.getLsbD k && maskCACT.getLsbD k) || (v.getLsbD k && (0xF80000FF : Word).getLsbD k)) := by
  simp [storedControl]

theorem anySet_storedControl {old v : Word} {k : Nat} (hk : k < 32) (h : (0xF80000FF : Word).getLsbD k = true)
    (h' : maskCACT.getLsbD k = false) :
    anySet (storedControl old v) (BitVec.twoPow 32 k) = anySet v (BitVec.twoPow 32 k) := by
  rw [anySet_twoPow _ hk, anySet_twoPow _ hk, getLsbD_storedControl, h, h', Bool.and_true, Bool.and_false,
    Bool.false_or]

@[simp] theorem anySet_storedControl_IE (old v : Word) : anySet (storedControl old v) maskIE = anySet v maskIE :=
  anySet_storedControl (k := 29) (by decide) (by decide) (by decide)
@[simp] theorem anySet_storedControl_PERIODIC (old v : Word) :
    anySet (storedControl old v) maskPERIODIC = anySet v maskPERIODIC :=
  anySet_storedControl (k := 27) (by decide) (by decide) (by decide)
@[simp] theorem running_storedControl (old v : Word) : running (storedControl old v) = running v :=
  anySet_storedControl (k := 30) (by decide) (by decide) (by decide)

@[simp] theorem irqLevel_storedControl (old v t : Word) (i : Fin 5) :
    irqLevel (storedControl old v) t i = irqLevel v t i := by
  rw [irqLevel, anySet_storedControl_IE, irqLevel]

theorem stored_of_crst (old v : Word) : ((old &&& maskCACT) ||| maskWritten v) &&& ~~~maskCRST = storedControl old v := by
  apply BitVec.eq_of_getLsbD_eq
  intro k hk
  rw [getLsbD_storedControl]
  simp only [BitVec.getLsbD_and, BitVec.getLsbD_or, BitVec.getLsbD_not, getLsbD_maskWritten]
  interval_cases k <;> simp [maskCACT, maskCRST]

theorem stored_of_not_crst (old v : Word) (h : anySet v maskCRST = false) :
    (old &&& maskCACT) ||| maskWritten v = storedControl old v := by
  apply BitVec.eq_of_getLsbD_eq
  intro k hk
  rw [getLsbD_storedControl]
  simp only [BitVec.getLsbD_and, BitVec.getLsbD_or, getLsbD_maskWritten]
  have h26 : v[26] = false := by rw [← BitVec.getLsbD_eq_getElem, ← anySet_CRST]; exact h
  interval_cases k <;> simp [maskCACT, h26]

/-- The prescale field is stored as written, so the divisor after a control write is the written one (R108, R143). -/
theorem prescaleDivisor_stored (old v : Word) : prescaleDivisor (storedControl old v) = prescaleDivisor v := by
  unfold prescaleDivisor
  congr 2
  apply BitVec.eq_of_getLsbD_eq
  intro k hk
  simp only [BitVec.getLsbD_extractLsb', getLsbD_storedControl]
  interval_cases k <;> simp [maskCACT]

/-- The unmasked intermediate value of step 3 has the written word's count-enable and interrupt-enable (R141). -/
theorem running_masked (old v : Word) : running ((old &&& maskCACT) ||| maskWritten v) = running v := by
  rw [running_eq, BitVec.getLsbD_or, BitVec.getLsbD_and, show maskCACT.getLsbD 30 = false by decide, Bool.and_false,
    Bool.false_or, ← running_eq, running_maskWritten]
theorem anySet_masked_IE (old v : Word) : anySet ((old &&& maskCACT) ||| maskWritten v) maskIE = anySet v maskIE := by
  rw [anySet_IE, BitVec.getLsbD_or, BitVec.getLsbD_and, show maskCACT.getLsbD 29 = false by decide, Bool.and_false,
    Bool.false_or, ← anySet_IE, anySet_maskWritten_IE]

theorem prescaleDivisor_masked (old v : Word) :
    prescaleDivisor ((old &&& maskCACT) ||| maskWritten v) = prescaleDivisor v := by
  unfold prescaleDivisor
  congr 2
  apply BitVec.eq_of_getLsbD_eq
  intro k hk
  simp only [BitVec.getLsbD_extractLsb', BitVec.getLsbD_and, BitVec.getLsbD_or, getLsbD_maskWritten]
  interval_cases k <;> simp [maskCACT]

end Sys2Proof.Machine
end

