-- ==== Sys2Proof/Laws/Operands.lean ====
section
/-! SUPPORT. The tick, the divisor and the conversions between counts and nanoseconds. -/

namespace Sys2Proof.Machine

/-- Every configuration's tick is in the range that R100 asks for (decision D7). -/
theorem nsPerTick_bounds (c : Config) : 1 ≤ c.nsPerTick ∧ c.nsPerTick ≤ 8388608 := by
  obtain ⟨⟨hz, h1, h2⟩, _⟩ := c
  simp only [Config.nsPerTick]
  constructor
  · exact (Nat.le_div_iff_mul_le (by omega)).2 (by omega)
  · exact le_trans (Nat.div_le_div_left h1 (by omega)) (by norm_num)

/-- The divisor is the low byte of the control register, plus one (R74). -/
theorem prescaleDivisor_eq (w : Word) : prescaleDivisor w = (w &&& 0xFF).toNat + 1 := by
  have h : w &&& 0xFF = (w.extractLsb' 0 8).setWidth 32 := by
    apply BitVec.eq_of_getLsbD_eq
    intro k hk
    simp only [BitVec.getLsbD_and, BitVec.getLsbD_setWidth, BitVec.getLsbD_extractLsb']
    interval_cases k <;> simp
  have hlt := (w.extractLsb' 0 8).isLt
  rw [prescaleDivisor, h, BitVec.toNat_setWidth]
  omega

theorem countToNs_nonneg (npt : Nat) (count : Word) (d : Nat) : 0 ≤ countToNs npt count d := Int.natCast_nonneg _

/-- No count lasts longer than the longest duration (R105). -/
theorem countToNs_le (npt : Nat) (count : Word) {d : Nat} (hd : d ≤ 256) : countToNs npt count d ≤ maxDuration npt := by
  have hc : count.toNat ≤ 4294967295 := by have := count.isLt; omega
  exact Int.ofNat_le.mpr (Nat.mul_le_mul (Nat.mul_le_mul_right npt hc) hd)

/-- A conversion of a non-negative time is one truncating division, kept to 32 bits (R102, R103 (b)). -/
theorem nsToCount_of_nonneg (npt : Nat) {ns : Int} (h : 0 ≤ ns) (d : Nat) :
    nsToCount npt ns d = BitVec.ofNat 32 (ns.toNat / (npt * d)) := by
  rw [nsToCount, if_neg (by omega), Nat.div_div_eq_div_mul]

end Sys2Proof.Machine
end

