-- ==== Sys2Proof/Laws/State.lean ====
section
/-! SUPPORT. The accessors of the state: what reading a field after each update gives, so that no later proof unfolds a
record update. -/

namespace Sys2Proof.Machine

section chan
variable (s : State) (i j : Fin 5) (c : Channel) (f : Channel → Channel)

@[simp] theorem chan_setChan_self : (s.setChan i c).chan i = c := by
  simp [State.setChan, State.chan]

theorem chan_setChan_of_ne (h : j ≠ i) : (s.setChan i c).chan j = s.chan j := by
  have : i.val ≠ j.val := fun e => h (Fin.ext e.symm)
  simp [State.setChan, State.chan, Vector.getElem_set_ne, this]

theorem chan_setChan : (s.setChan i c).chan j = if j = i then c else s.chan j := by
  split
  · next h => subst h; simp
  · next h => exact chan_setChan_of_ne s i j c h

@[simp] theorem setChan_tisr : (s.setChan i c).tisr = s.tisr := rfl
@[simp] theorem setChan_wtcr : (s.setChan i c).wtcr = s.wtcr := rfl
@[simp] theorem setChan_now : (s.setChan i c).now = s.now := rfl
@[simp] theorem setChan_cfg : (s.setChan i c).cfg = s.cfg := rfl
@[simp] theorem setChan_inputs : (s.setChan i c).inputs = s.inputs := rfl
@[simp] theorem setChan_resp : (s.setChan i c).resp = s.resp := rfl
@[simp] theorem setChan_diags : (s.setChan i c).diags = s.diags := rfl
@[simp] theorem setChan_npt : (s.setChan i c).npt = s.npt := rfl

@[simp] theorem chan_mapChan_self : (s.mapChan i f).chan i = f (s.chan i) := by simp [State.mapChan]

theorem chan_mapChan : (s.mapChan i f).chan j = if j = i then f (s.chan i) else s.chan j := by
  simp [State.mapChan, chan_setChan]

theorem mapChan_eq_setChan : s.mapChan i f = s.setChan i (f (s.chan i)) := rfl

@[simp] theorem mapChan_tisr : (s.mapChan i f).tisr = s.tisr := rfl
@[simp] theorem mapChan_wtcr : (s.mapChan i f).wtcr = s.wtcr := rfl
@[simp] theorem mapChan_now : (s.mapChan i f).now = s.now := rfl
@[simp] theorem mapChan_cfg : (s.mapChan i f).cfg = s.cfg := rfl
@[simp] theorem mapChan_inputs : (s.mapChan i f).inputs = s.inputs := rfl
@[simp] theorem mapChan_resp : (s.mapChan i f).resp = s.resp := rfl
@[simp] theorem mapChan_diags : (s.mapChan i f).diags = s.diags := rfl
@[simp] theorem mapChan_npt : (s.mapChan i f).npt = s.npt := rfl

/-- Of two writes of one channel the later stands. -/
@[simp] theorem setChan_setChan (d : Channel) : (s.setChan i c).setChan i d = s.setChan i d := by
  simp [State.setChan]

/-- Writing back what a channel holds changes nothing. -/
@[simp] theorem setChan_chan : s.setChan i (s.chan i) = s := by
  simp [State.setChan, State.chan]

/-- Writes of two channels commute. -/
theorem setChan_comm (d : Channel) (h : i ≠ j) :
    (s.setChan i c).setChan j d = (s.setChan j d).setChan i c := by
  have : i.val ≠ j.val := fun e => h (Fin.ext e)
  simp [State.setChan, Vector.set_comm _ _ this]

end chan

section fields
variable (s : State) (i : Fin 5) (v : Word) (t : Int) (ws : List (List Word)) (p : Snapshot) (cs : List Cause)

@[simp] theorem setTisr_chan : (s.setTisr v).chan i = s.chan i := rfl
@[simp] theorem setTisr_tisr : (s.setTisr v).tisr = v := rfl
@[simp] theorem setTisr_wtcr : (s.setTisr v).wtcr = s.wtcr := rfl
@[simp] theorem setTisr_now : (s.setTisr v).now = s.now := rfl
@[simp] theorem setTisr_cfg : (s.setTisr v).cfg = s.cfg := rfl
@[simp] theorem setTisr_inputs : (s.setTisr v).inputs = s.inputs := rfl
@[simp] theorem setTisr_resp : (s.setTisr v).resp = s.resp := rfl
@[simp] theorem setTisr_diags : (s.setTisr v).diags = s.diags := rfl
@[simp] theorem setTisr_npt : (s.setTisr v).npt = s.npt := rfl

@[simp] theorem setWtcr_chan : (s.setWtcr v).chan i = s.chan i := rfl
@[simp] theorem setWtcr_tisr : (s.setWtcr v).tisr = s.tisr := rfl
@[simp] theorem setWtcr_wtcr : (s.setWtcr v).wtcr = v := rfl
@[simp] theorem setWtcr_now : (s.setWtcr v).now = s.now := rfl
@[simp] theorem setWtcr_cfg : (s.setWtcr v).cfg = s.cfg := rfl
@[simp] theorem setWtcr_inputs : (s.setWtcr v).inputs = s.inputs := rfl
@[simp] theorem setWtcr_resp : (s.setWtcr v).resp = s.resp := rfl
@[simp] theorem setWtcr_diags : (s.setWtcr v).diags = s.diags := rfl
@[simp] theorem setWtcr_npt : (s.setWtcr v).npt = s.npt := rfl

@[simp] theorem setNow_chan : (s.setNow t).chan i = s.chan i := rfl
@[simp] theorem setNow_tisr : (s.setNow t).tisr = s.tisr := rfl
@[simp] theorem setNow_wtcr : (s.setNow t).wtcr = s.wtcr := rfl
@[simp] theorem setNow_now : (s.setNow t).now = t := rfl
@[simp] theorem setNow_cfg : (s.setNow t).cfg = s.cfg := rfl
@[simp] theorem setNow_inputs : (s.setNow t).inputs = s.inputs := rfl
@[simp] theorem setNow_resp : (s.setNow t).resp = s.resp := rfl
@[simp] theorem setNow_diags : (s.setNow t).diags = s.diags := rfl
@[simp] theorem setNow_npt : (s.setNow t).npt = s.npt := rfl

@[simp] theorem setInputs_chan : (s.setInputs ws).chan i = s.chan i := rfl
@[simp] theorem setInputs_tisr : (s.setInputs ws).tisr = s.tisr := rfl
@[simp] theorem setInputs_wtcr : (s.setInputs ws).wtcr = s.wtcr := rfl
@[simp] theorem setInputs_now : (s.setInputs ws).now = s.now := rfl
@[simp] theorem setInputs_cfg : (s.setInputs ws).cfg = s.cfg := rfl
@[simp] theorem setInputs_inputs : (s.setInputs ws).inputs = ws := rfl
@[simp] theorem setInputs_resp : (s.setInputs ws).resp = s.resp := rfl
@[simp] theorem setInputs_diags : (s.setInputs ws).diags = s.diags := rfl
@[simp] theorem setInputs_npt : (s.setInputs ws).npt = s.npt := rfl

@[simp] theorem answer_chan : (s.answer v).chan i = s.chan i := rfl
@[simp] theorem answer_tisr : (s.answer v).tisr = s.tisr := rfl
@[simp] theorem answer_wtcr : (s.answer v).wtcr = s.wtcr := rfl
@[simp] theorem answer_now : (s.answer v).now = s.now := rfl
@[simp] theorem answer_cfg : (s.answer v).cfg = s.cfg := rfl
@[simp] theorem answer_inputs : (s.answer v).inputs = s.inputs := rfl
@[simp] theorem answer_resp : (s.answer v).resp = some (.data v) := rfl
@[simp] theorem answer_diags : (s.answer v).diags = s.diags := rfl
@[simp] theorem answer_npt : (s.answer v).npt = s.npt := rfl

@[simp] theorem answerRecord_chan : (s.answerRecord p).chan i = s.chan i := rfl
@[simp] theorem answerRecord_tisr : (s.answerRecord p).tisr = s.tisr := rfl
@[simp] theorem answerRecord_wtcr : (s.answerRecord p).wtcr = s.wtcr := rfl
@[simp] theorem answerRecord_now : (s.answerRecord p).now = s.now := rfl
@[simp] theorem answerRecord_cfg : (s.answerRecord p).cfg = s.cfg := rfl
@[simp] theorem answerRecord_inputs : (s.answerRecord p).inputs = s.inputs := rfl
@[simp] theorem answerRecord_resp : (s.answerRecord p).resp = some (.record p) := rfl
@[simp] theorem answerRecord_diags : (s.answerRecord p).diags = s.diags := rfl
@[simp] theorem answerRecord_npt : (s.answerRecord p).npt = s.npt := rfl

@[simp] theorem emit_chan : (s.emit cs).chan i = s.chan i := rfl
@[simp] theorem emit_tisr : (s.emit cs).tisr = s.tisr := rfl
@[simp] theorem emit_wtcr : (s.emit cs).wtcr = s.wtcr := rfl
@[simp] theorem emit_now : (s.emit cs).now = s.now := rfl
@[simp] theorem emit_cfg : (s.emit cs).cfg = s.cfg := rfl
@[simp] theorem emit_inputs : (s.emit cs).inputs = s.inputs := rfl
@[simp] theorem emit_resp : (s.emit cs).resp = s.resp := rfl
@[simp] theorem emit_diags : (s.emit cs).diags = s.diags ++ cs := rfl
@[simp] theorem emit_npt : (s.emit cs).npt = s.npt := rfl

/-- Writing a channel and writing the interrupt-status word commute. -/
theorem setTisr_setChan (c : Channel) : (s.setChan i c).setTisr v = (s.setTisr v).setChan i c := rfl

end fields

/-- Two states are equal when every channel and every other field are. -/
theorem State.ext_chan {s t : State} (hch : ∀ i, s.chan i = t.chan i) (h1 : s.tisr = t.tisr) (h2 : s.wtcr = t.wtcr)
    (h3 : s.now = t.now) (h4 : s.cfg = t.cfg) (h5 : s.inputs = t.inputs) (h6 : s.resp = t.resp)
    (h7 : s.diags = t.diags) : s = t := by
  have hv : s.ch = t.ch := Vector.ext fun k hk => hch ⟨k, hk⟩
  cases s; cases t; simp_all

/-- A statement about every channel, one channel at a time. -/
theorem forall_chan {p : Fin 5 → Prop} : (∀ i, p i) ↔ p 0 ∧ p 1 ∧ p 2 ∧ p 3 ∧ p 4 := by
  constructor
  · intro h; exact ⟨h 0, h 1, h 2, h 3, h 4⟩
  · rintro ⟨h0, h1, h2, h3, h4⟩ i
    match i with
    | 0 => exact h0
    | 1 => exact h1
    | 2 => exact h2
    | 3 => exact h3
    | 4 => exact h4

/-- Every channel of the state after reset is a reset channel (R40). -/
@[simp] theorem reset_chan (i : Fin 5) : State.reset.chan i = Channel.reset := by
  match i with
  | 0 | 1 | 2 | 3 | 4 => rfl

/-- Every channel after RESET is a reset channel (R250). -/
@[simp] theorem resetBlock_chan (s : State) (i : Fin 5) : (resetBlock s).chan i = Channel.reset := by
  match i with
  | 0 | 1 | 2 | 3 | 4 => rfl

@[simp] theorem resetBlock_tisr (s : State) : (resetBlock s).tisr = 0 := rfl
@[simp] theorem resetBlock_wtcr (s : State) : (resetBlock s).wtcr = 0x400 := rfl
@[simp] theorem resetBlock_now (s : State) : (resetBlock s).now = s.now := rfl
@[simp] theorem resetBlock_cfg (s : State) : (resetBlock s).cfg = s.cfg := rfl
@[simp] theorem resetBlock_inputs (s : State) : (resetBlock s).inputs = s.inputs := rfl
@[simp] theorem resetBlock_resp (s : State) : (resetBlock s).resp = s.resp := rfl
@[simp] theorem resetBlock_diags (s : State) : (resetBlock s).diags = s.diags := rfl

end Sys2Proof.Machine
end

