-- ==== Sys2Proof/Laws/Ops.lean ====
section
/-! SUPPORT. One lemma per shared operation that says once everything it can do. -/

namespace Sys2Proof.Machine

/-! ### Enabling -/

theorem due_iff (s : State) (i : Fin 5) :
    s.due i = true ↔ (s.chan i).armed = true ∧ (s.chan i).deadlineNs ≤ s.now := by
  simp [State.due]

theorem anyDue_eq_false (s : State) : s.anyDue = false ↔ ∀ i, s.due i = false := by
  rw [forall_chan]; simp [State.anyDue, and_assoc]

theorem anyDue_eq_true (s : State) : s.anyDue = true ↔ ∃ i, s.due i = true := by
  rw [← Bool.not_eq_false, anyDue_eq_false]; simp

/-- The lowest due channel is due, and there is one exactly when some channel is due. -/
theorem firstDue_cases (s : State) :
    (s.anyDue = false ∧ s.firstDue = none) ∨
      ∃ i, s.firstDue = some i ∧ s.due i = true ∧ ∀ j, j < i → s.due j = false := by
  have lt1 : ∀ j : Fin 5, j < 1 → j = 0 := by decide
  have lt2 : ∀ j : Fin 5, j < 2 → j = 0 ∨ j = 1 := by decide
  have lt3 : ∀ j : Fin 5, j < 3 → j = 0 ∨ j = 1 ∨ j = 2 := by decide
  have lt4 : ∀ j : Fin 5, j < 4 → j = 0 ∨ j = 1 ∨ j = 2 ∨ j = 3 := by decide
  unfold State.firstDue
  cases h0 : s.due 0
  swap
  · exact .inr ⟨0, by simp, h0, fun j hj => absurd hj (by simp)⟩
  cases h1 : s.due 1
  swap
  · exact .inr ⟨1, by simp, h1, fun j hj => by rw [lt1 j hj]; exact h0⟩
  cases h2 : s.due 2
  swap
  · exact .inr ⟨2, by simp, h2, fun j hj => by obtain rfl | rfl := lt2 j hj; exacts [h0, h1]⟩
  cases h3 : s.due 3
  swap
  · exact .inr ⟨3, by simp, h3, fun j hj => by obtain rfl | rfl | rfl := lt3 j hj; exacts [h0, h1, h2]⟩
  cases h4 : s.due 4
  · exact .inl ⟨by simp [State.anyDue, *], by simp⟩
  · exact .inr ⟨4, by simp, h4, fun j hj => by obtain rfl | rfl | rfl | rfl := lt4 j hj; exacts [h0, h1, h2, h3]⟩

theorem mayAdvance_iff (s : State) (d : Nat) :
    s.mayAdvance d = true ↔ ∀ i, (s.chan i).armed = true → s.now + d ≤ (s.chan i).deadlineNs := by
  rw [forall_chan]
  simp [State.mayAdvance, State.mayPass, Decidable.imp_iff_not_or, and_assoc]

theorem whenNoneDue_next {s t : State} {k : Result} (h : whenNoneDue s k = .next t) :
    s.anyDue = false ∧ k = .next t := by
  unfold whenNoneDue at h
  split at h
  · cases h
  · next hd => exact ⟨by simpa using hd, h⟩

@[simp] theorem whenNoneDue_of_none {s : State} {k : Result} (h : s.anyDue = false) : whenNoneDue s k = k := by
  simp [whenNoneDue, h]

/-! ### Interrupt evaluation, start, pause, restart -/

/-- Recomputing every line changes each channel's line to its level and nothing else (R104). -/
theorem recomputeAllIrqs_chan (s : State) (j : Fin 5) :
    (recomputeAllIrqs s).chan j = { s.chan j with irq := irqLevel (s.chan j).control s.tisr j } := by
  match j with
  | 0 | 1 | 2 | 3 | 4 => simp [recomputeAllIrqs, recomputeIrq, chan_mapChan]

@[simp] theorem recomputeAllIrqs_tisr (s : State) : (recomputeAllIrqs s).tisr = s.tisr := rfl
@[simp] theorem recomputeAllIrqs_wtcr (s : State) : (recomputeAllIrqs s).wtcr = s.wtcr := rfl
@[simp] theorem recomputeAllIrqs_now (s : State) : (recomputeAllIrqs s).now = s.now := rfl
@[simp] theorem recomputeAllIrqs_cfg (s : State) : (recomputeAllIrqs s).cfg = s.cfg := rfl
@[simp] theorem recomputeAllIrqs_inputs (s : State) : (recomputeAllIrqs s).inputs = s.inputs := rfl
@[simp] theorem recomputeAllIrqs_resp (s : State) : (recomputeAllIrqs s).resp = s.resp := rfl
@[simp] theorem recomputeAllIrqs_diags (s : State) : (recomputeAllIrqs s).diags = s.diags := rfl

/-- `pause` either raises the fatal assertion or stops the channel with the strictly positive rest of its run (R107). -/
theorem pause_cases (i : Fin 5) (s : State) :
    ((s.chan i).deadlineNs - s.now ≤ 0 ∧ pause i s = .fault (.internalInvariantViolation i)) ∨
    (0 < (s.chan i).deadlineNs - s.now ∧
      pause i s = .next (s.setChan i { s.chan i with armed := false, remainingNs := (s.chan i).deadlineNs - s.now })) := by
  by_cases h : (s.chan i).deadlineNs - s.now ≤ 0
  · exact .inl ⟨h, by simp [pause, h]⟩
  · exact .inr ⟨by omega, by simp [pause, h, mapChan_eq_setChan]⟩

/-- The duration a count at the channel's reload and divisor stands for (R108 `fresh`). -/
def freshDuration (npt : Nat) (reload control : Word) : Int := countToNs npt reload (prescaleDivisor control)

/-- `restart` recomputes the duration and starts only a channel enabled before and after (R108). -/
theorem restart_eq (i : Fin 5) (old : Word) (s : State) :
    restart i old s =
      s.setChan i
        { s.chan i with
          remainingNs := freshDuration s.npt (s.chan i).reload (s.chan i).control
          deadlineNs :=
            if (running old && running (s.chan i).control) then
              s.now + freshDuration s.npt (s.chan i).reload (s.chan i).control
            else (s.chan i).deadlineNs
          armed := (running old && running (s.chan i).control) || (s.chan i).armed } := by
  by_cases h : (running old && running (s.chan i).control) = true <;>
    simp [restart, reloadRemaining, start, mapChan_eq_setChan, freshDuration, h]

/-- `WR TICRi, v` changes its own channel's reload register and timing state and nothing else (R151). -/
theorem writeReload_eq (i : Fin 5) (v : Word) (s : State) :
    writeReload i v s =
      s.setChan i
        { s.chan i with
          reload := v
          remainingNs := freshDuration s.npt v (s.chan i).control
          deadlineNs :=
            if running (s.chan i).control then s.now + freshDuration s.npt v (s.chan i).control
            else (s.chan i).deadlineNs
          armed := running (s.chan i).control || (s.chan i).armed } := by
  simp [writeReload, restart_eq, mapChan_eq_setChan]

/-! ### EXPIRE -/

/-- A stale callback only clears `armed` (R129). -/
theorem expireChannel_stale {i : Fin 5} {s : State} (h : running (s.chan i).control = false) :
    expireChannel i s = s.setChan i { s.chan i with armed := false } := by
  simp [expireChannel, mapChan_eq_setChan, h]

/-- A periodic expiration latches, reloads and re-arms (R122). -/
theorem expireChannel_periodic {i : Fin 5} {s : State} (h : running (s.chan i).control = true)
    (hp : anySet (s.chan i).control maskPERIODIC = true) :
    expireChannel i s =
      (s.setTisr (setLatch s.tisr i)).setChan i
        { s.chan i with
          remainingNs := freshDuration s.npt (s.chan i).reload (s.chan i).control
          deadlineNs := s.now + freshDuration s.npt (s.chan i).reload (s.chan i).control
          armed := true
          irq := anySet (s.chan i).control maskIE } := by
  simp [expireChannel, mapChan_eq_setChan, setTisr_setChan, h, hp, reloadRemaining, start, recomputeIrq, freshDuration,
    irqLevel, latched_setLatch]

theorem anySet_clear_CEN_CACT_IE (w : Word) : anySet (w &&& ~~~(maskCEN ||| maskCACT)) maskIE = anySet w maskIE := by
  simp only [anySet_IE, BitVec.getLsbD_and, BitVec.getLsbD_not, BitVec.getLsbD_or]
  simp [maskCEN, maskCACT]

/-- A one-shot expiration latches and stops with nothing left (R122, 90_conflicts.md C3). -/
theorem expireChannel_oneShot {i : Fin 5} {s : State} (h : running (s.chan i).control = true)
    (hp : anySet (s.chan i).control maskPERIODIC = false) :
    expireChannel i s =
      (s.setTisr (setLatch s.tisr i)).setChan i
        { s.chan i with
          control := (s.chan i).control &&& ~~~(maskCEN ||| maskCACT)
          remainingNs := 0
          armed := false
          irq := anySet (s.chan i).control maskIE } := by
  simp [expireChannel, mapChan_eq_setChan, setTisr_setChan, h, hp, recomputeIrq, irqLevel, latched_setLatch,
    anySet_clear_CEN_CACT_IE]

/-- An expiration changes channels, latches and lines only (R122). -/
theorem expireChannel_fields (i : Fin 5) (s : State) :
    (expireChannel i s).wtcr = s.wtcr ∧ (expireChannel i s).now = s.now ∧ (expireChannel i s).cfg = s.cfg
      ∧ (expireChannel i s).inputs = s.inputs ∧ (expireChannel i s).resp = s.resp
      ∧ (expireChannel i s).diags = s.diags := by
  by_cases h : running (s.chan i).control = true
  · by_cases hp : anySet (s.chan i).control maskPERIODIC = true
    · simp [expireChannel_periodic h hp]
    · simp [expireChannel_oneShot h (by simpa using hp)]
  · simp [expireChannel_stale (by simpa using h)]

/-! ### WR TCSRi -/

/-- The channel after steps 1 to 5 of a control write (R141). -/
def controlWritten (npt : Nat) (now : Int) (tisr : Word) (i : Fin 5) (v : Word) (c : Channel) : Channel where
  control := storedControl c.control v
  reload := c.reload
  remainingNs := if anySet v maskCRST then freshDuration npt c.reload v else c.remainingNs
  deadlineNs :=
    if anySet v maskCRST && (running c.control && running v) then now + freshDuration npt c.reload v else c.deadlineNs
  armed := (anySet v maskCRST && (running c.control && running v)) || c.armed
  irq := if anySet (c.control ^^^ v) maskIE then irqLevel v tisr i else c.irq

/-- Everything a control write can do (R141): the diagnostics, the channel after steps 1 to 5, and then nothing, a
start or a pause as count-enable stays, rises or falls. -/
theorem writeControl_eq (i : Fin 5) (v : Word) (s : State) :
    writeControl i v s =
      let c := s.chan i
      let c' := controlWritten s.npt s.now s.tisr i v c
      let s' := (s.emit (writeDiags v)).setChan i c'
      if running c.control = running v then .next s'
      else if running v then .next (start i s') else pause i s' := by
  have hIE : ∀ t : Word, irqLevel ((s.chan i).control &&& maskCACT ||| maskWritten v) t i = irqLevel v t i := by
    intro t; rw [irqLevel, anySet_masked_IE, irqLevel]
  by_cases hc : anySet v maskCRST = true <;> by_cases ho : running (s.chan i).control = true <;>
    by_cases hn : running v = true <;>
    by_cases hi : (anySet (s.chan i).control maskIE ^^ anySet v maskIE) = true <;>
    simp [writeControl, controlWritten, recomputeIrq, restart_eq, mapChan_eq_setChan, freshDuration, hIE, stored_of_crst,
      stored_of_not_crst, prescaleDivisor_masked, running_masked, anySet_xor_IE, hc, ho, hn, hi]

/-! ### The host's operations -/

theorem loadSnapshot_chan (p : Snapshot) (s : State) (i : Fin 5) :
    (loadSnapshot p s).chan i =
      { control := p.ch[i].control, reload := p.ch[i].reload, remainingNs := p.ch[i].remainingNs,
        deadlineNs := p.ch[i].deadlineNs, armed := p.ch[i].armed,
        irq := irqLevel p.ch[i].control p.interruptStatus i } := by
  rw [loadSnapshot, recomputeAllIrqs_chan]
  match i with
  | 0 | 1 | 2 | 3 | 4 => rfl

@[simp] theorem loadSnapshot_tisr (p : Snapshot) (s : State) : (loadSnapshot p s).tisr = p.interruptStatus := rfl
@[simp] theorem loadSnapshot_wtcr (p : Snapshot) (s : State) : (loadSnapshot p s).wtcr = p.watchdogControl := rfl
@[simp] theorem loadSnapshot_now (p : Snapshot) (s : State) : (loadSnapshot p s).now = s.now := rfl
@[simp] theorem loadSnapshot_cfg (p : Snapshot) (s : State) : (loadSnapshot p s).cfg = s.cfg := rfl
@[simp] theorem loadSnapshot_inputs (p : Snapshot) (s : State) : (loadSnapshot p s).inputs = s.inputs := rfl
@[simp] theorem loadSnapshot_resp (p : Snapshot) (s : State) : (loadSnapshot p s).resp = s.resp := rfl
@[simp] theorem loadSnapshot_diags (p : Snapshot) (s : State) : (loadSnapshot p s).diags = s.diags := rfl

theorem snapshotOf_ch (s : State) (i : Fin 5) : (snapshotOf s).ch[i] = (s.chan i).record := by
  match i with
  | 0 | 1 | 2 | 3 | 4 => rfl

theorem validSnapshot_iff (npt : Nat) (p : Snapshot) :
    validSnapshot npt p = true ↔
      (∀ i : Fin 5, validChannel npt p.ch[i] = true) ∧ p.interruptStatus &&& 0xFFFFFFE0 = 0 := by
  rw [forall_chan]; simp [validSnapshot, and_assoc]

theorem validChannel_iff (npt : Nat) (c : ChannelRecord) :
    validChannel npt c = true ↔
      c.control &&& (maskRSVD ||| maskCRST ||| maskCACT) = 0 ∧ c.armed = running c.control ∧ 0 ≤ c.remainingNs
        ∧ c.remainingNs ≤ maxDuration npt := by
  simp [validChannel, and_assoc]

end Sys2Proof.Machine
end

