-- ==== Sys2Proof/Laws/Exec.lean ====
section
/-! SUPPORT. The operations by register and channel: which shared operation each performs, and what a step can do. -/

namespace Sys2Proof.Machine

variable (k : Fin 5) (v : Word) (s : State)

@[simp] theorem exec_rd_tcsr : exec (.rd (.tcsr k)) s = busRead (s.chan k).control s := by
  match k with | 0 | 1 | 2 | 3 | 4 => rfl
@[simp] theorem exec_wr_tcsr : exec (.wr (.tcsr k) v) s = whenNoneDue s (writeControl k v s) := by
  match k with | 0 | 1 | 2 | 3 | 4 => rfl
@[simp] theorem exec_rd_ticr : exec (.rd (.ticr k)) s = busRead (s.chan k).reload s := by
  match k with | 0 | 1 | 2 | 3 | 4 => rfl
@[simp] theorem exec_wr_ticr : exec (.wr (.ticr k) v) s = whenNoneDue s (.next (writeReload k v s)) := by
  match k with | 0 | 1 | 2 | 3 | 4 => rfl
@[simp] theorem exec_rd_tdr : exec (.rd (.tdr k)) s = busRead (counterValue k s) s := by
  match k with | 0 | 1 | 2 | 3 | 4 => rfl
@[simp] theorem exec_wr_tdr : exec (.wr (.tdr k) v) s = whenNoneDue s (.next (s.emit [.readonlyRegister])) := by
  match k with | 0 | 1 | 2 | 3 | 4 => rfl
@[simp] theorem exec_expire : exec (.expire k) s = expireOp k s := by
  match k with | 0 | 1 | 2 | 3 | 4 => rfl
@[simp] theorem exec_rd_tisr : exec (.rd .tisr) s = busRead s.tisr s := rfl
@[simp] theorem exec_wr_tisr : exec (.wr .tisr v) s = whenNoneDue s (.next (writeStatus v s)) := rfl
@[simp] theorem exec_rd_wtcr : exec (.rd .wtcr) s = busRead s.wtcr s := rfl
@[simp] theorem exec_wr_wtcr : exec (.wr .wtcr v) s = whenNoneDue s (.next ((s.setWtcr v).emit [.unimplemented])) := rfl
@[simp] theorem exec_rdTisr : exec .rdTisr s = busRead s.tisr s := rfl
@[simp] theorem exec_wrTisr : exec (.wrTisr v) s = whenNoneDue s (.next (writeStatus v s)) := rfl
@[simp] theorem exec_rdWtcr : exec .rdWtcr s = busRead s.wtcr s := rfl
@[simp] theorem exec_wrWtcr : exec (.wrWtcr v) s = whenNoneDue s (.next ((s.setWtcr v).emit [.unimplemented])) := rfl
@[simp] theorem exec_rdUnknown (off : BitVec 30) :
    exec (.rdUnknown off) s = unknownOffset off s (.next ((s.emit [.unknownOffsetRead]).answer 0)) := rfl
@[simp] theorem exec_wrUnknown (off : BitVec 30) :
    exec (.wrUnknown off v) s = unknownOffset off s (.next (s.emit [.unknownOffsetWrite])) := rfl
@[simp] theorem exec_configure : exec .configure s = .next (resetBlock s) := rfl
@[simp] theorem exec_reset : exec .reset s = .next (resetBlock s) := rfl
@[simp] theorem exec_snapshot : exec .snapshot s = whenNoneDue s (.next (s.answerRecord (snapshotOf s))) := rfl
@[simp] theorem exec_restore (p : Snapshot) :
    exec (.restore p) s = if validSnapshot s.npt p then .next (loadSnapshot p s) else .refused .invalidSnapshot := rfl
@[simp] theorem exec_advance (d : Nat) :
    exec (.advance d) s =
      if d = 0 then .refused .advanceByZero
      else whenNoneDue s (if s.mayAdvance d then .next (s.setNow (s.now + d)) else .refused .passesDeadline) := rfl

/-- The operations, by register and channel: a case split that leaves one goal per kind of operation. -/
theorem instr_cases {p : Instr → Prop} (i : Instr) (rd : ∀ r, p (.rd r)) (wr : ∀ r v, p (.wr r v))
    (rdUnknown : ∀ off, p (.rdUnknown off)) (wrUnknown : ∀ off v, p (.wrUnknown off v)) (configure : p .configure)
    (reset : p .reset) (snapshot : p .snapshot) (restore : ∀ q, p (.restore q)) (advance : ∀ d, p (.advance d))
    (expire : ∀ k, p (.expire k)) : p i := by
  cases i with
  | rdTcsr0 => exact rd (.tcsr 0)
  | rdTcsr1 => exact rd (.tcsr 1)
  | rdTcsr2 => exact rd (.tcsr 2)
  | rdTcsr3 => exact rd (.tcsr 3)
  | rdTcsr4 => exact rd (.tcsr 4)
  | rdTicr0 => exact rd (.ticr 0)
  | rdTicr1 => exact rd (.ticr 1)
  | rdTicr2 => exact rd (.ticr 2)
  | rdTicr3 => exact rd (.ticr 3)
  | rdTicr4 => exact rd (.ticr 4)
  | rdTdr0 => exact rd (.tdr 0)
  | rdTdr1 => exact rd (.tdr 1)
  | rdTdr2 => exact rd (.tdr 2)
  | rdTdr3 => exact rd (.tdr 3)
  | rdTdr4 => exact rd (.tdr 4)
  | rdTisr => exact rd .tisr
  | rdWtcr => exact rd .wtcr
  | wrTcsr0 v => exact wr (.tcsr 0) v
  | wrTcsr1 v => exact wr (.tcsr 1) v
  | wrTcsr2 v => exact wr (.tcsr 2) v
  | wrTcsr3 v => exact wr (.tcsr 3) v
  | wrTcsr4 v => exact wr (.tcsr 4) v
  | wrTicr0 v => exact wr (.ticr 0) v
  | wrTicr1 v => exact wr (.ticr 1) v
  | wrTicr2 v => exact wr (.ticr 2) v
  | wrTicr3 v => exact wr (.ticr 3) v
  | wrTicr4 v => exact wr (.ticr 4) v
  | wrTdr0 v => exact wr (.tdr 0) v
  | wrTdr1 v => exact wr (.tdr 1) v
  | wrTdr2 v => exact wr (.tdr 2) v
  | wrTdr3 v => exact wr (.tdr 3) v
  | wrTdr4 v => exact wr (.tdr 4) v
  | wrTisr v => exact wr .tisr v
  | wrWtcr v => exact wr .wtcr v
  | rdUnknown off => exact rdUnknown off
  | wrUnknown off v => exact wrUnknown off v
  | configure => exact configure
  | reset => exact reset
  | snapshot => exact snapshot
  | restore q => exact restore q
  | advance d => exact advance d
  | expire0 => exact expire 0
  | expire1 => exact expire 1
  | expire2 => exact expire 2
  | expire3 => exact expire 3
  | expire4 => exact expire 4

/-- No channel is due, as the operations test it and as the statements say it. -/
theorem noneDue_iff : NoneDue s ↔ s.anyDue = false := by
  rw [anyDue_eq_false]
  refine forall_congr' fun i => ?_
  rw [← due_iff, Bool.not_eq_true]

/-- What a control write leaves when it completes (R141): the channel after steps 1 to 5, with a start or a pause as
count-enable rises or falls. -/
def controlDone (npt : Nat) (now : Int) (tisr : Word) (k : Fin 5) (v : Word) (c : Channel) : Channel :=
  let c' := controlWritten npt now tisr k v c
  if running c.control = running v then c'
  else if running v then { c' with deadlineNs := now + c'.remainingNs, armed := true }
  else { c' with remainingNs := c.deadlineNs - now, armed := false }

/-- A control write either raises the fatal assertion, exactly when it stops a channel whose deadline has passed, or
completes. -/
theorem writeControl_cases :
    (Disables k v s ∧ (s.chan k).deadlineNs - s.now ≤ 0 ∧
      writeControl k v s = .fault (.internalInvariantViolation k)) ∨
    ((Disables k v s → 0 < (s.chan k).deadlineNs - s.now) ∧
      writeControl k v s =
        .next ((s.emit (writeDiags v)).setChan k (controlDone s.npt s.now s.tisr k v (s.chan k)))) := by
  rw [writeControl_eq]
  by_cases ho : running (s.chan k).control = true <;> by_cases hn : running v = true
  · exact .inr ⟨fun h => by simp_all, by simp [controlDone, ho, hn]⟩
  · have hd : (controlWritten s.npt s.now s.tisr k v (s.chan k)).deadlineNs = (s.chan k).deadlineNs := by
      simp [controlWritten, hn]
    obtain ⟨hle, hp⟩ | ⟨hlt, hp⟩ :=
      pause_cases k ((s.emit (writeDiags v)).setChan k (controlWritten s.npt s.now s.tisr k v (s.chan k)))
    · rw [chan_setChan_self, hd] at hle
      exact .inl ⟨⟨ho, by simpa using hn⟩, hle, by simp [ho, hn, hp]⟩
    · rw [chan_setChan_self, hd] at hlt hp
      exact .inr ⟨fun _ => hlt, by simpa [ho, hn, controlDone] using hp⟩
  · exact .inr ⟨fun h => by simp_all, by simp [controlDone, ho, hn, start, mapChan_eq_setChan]⟩
  · exact .inr ⟨fun h => by simp_all, by simp [controlDone, ho, hn]⟩

/-- Everything an operation can do when it completes, by register and channel. -/
theorem exec_next_cases {i : Instr} {s t : State} (h : exec i s = .next t) :
    (∃ r v, i = .rd r ∧ s.anyDue = false ∧ t = s.answer v) ∨
    (∃ k v, i = .wr (.tcsr k) v ∧ s.anyDue = false ∧ (Disables k v s → 0 < (s.chan k).deadlineNs - s.now) ∧
      t = (s.emit (writeDiags v)).setChan k (controlDone s.npt s.now s.tisr k v (s.chan k))) ∨
    (∃ k v, i = .wr (.ticr k) v ∧ s.anyDue = false ∧ t = writeReload k v s) ∨
    (∃ k v, i = .wr (.tdr k) v ∧ s.anyDue = false ∧ t = s.emit [.readonlyRegister]) ∨
    (∃ v, i = .wrTisr v ∧ s.anyDue = false ∧ t = writeStatus v s) ∨
    (∃ v, i = .wrWtcr v ∧ s.anyDue = false ∧ t = (s.setWtcr v).emit [.unimplemented]) ∨
    (∃ off, i = .rdUnknown off ∧ s.anyDue = false ∧ t = (s.emit [.unknownOffsetRead]).answer 0) ∨
    (∃ off v, i = .wrUnknown off v ∧ s.anyDue = false ∧ t = s.emit [.unknownOffsetWrite]) ∨
    (i = .configure ∧ t = resetBlock s) ∨
    (i = .reset ∧ t = resetBlock s) ∨
    (i = .snapshot ∧ s.anyDue = false ∧ t = s.answerRecord (snapshotOf s)) ∨
    (∃ p, i = .restore p ∧ validSnapshot s.npt p = true ∧ t = loadSnapshot p s) ∨
    (∃ d, i = .advance d ∧ 0 < d ∧ s.anyDue = false ∧ s.mayAdvance d = true ∧ t = s.setNow (s.now + d)) ∨
    (∃ k, i = .expire k ∧ s.due k = true ∧ t = expireChannel k s) := by
  induction i using instr_cases with
  | rd r =>
    refine .inl ⟨r, ?_⟩
    cases r <;> simp only [exec_rd_tcsr, exec_rd_ticr, exec_rd_tdr, exec_rd_tisr, exec_rd_wtcr, busRead] at h <;>
      (obtain ⟨h1, h2⟩ := whenNoneDue_next h; cases h2; exact ⟨_, rfl, h1, rfl⟩)
  | wr r v =>
    cases r with
    | tcsr k =>
      rw [exec_wr_tcsr] at h
      obtain ⟨h1, h2⟩ := whenNoneDue_next h
      obtain ⟨-, -, h3⟩ | ⟨h3, h4⟩ := writeControl_cases k v s
      · rw [h2] at h3; cases h3
      · rw [h2] at h4; cases h4
        exact .inr (.inl ⟨k, v, rfl, h1, h3, rfl⟩)
    | ticr k =>
      rw [exec_wr_ticr] at h
      obtain ⟨h1, h2⟩ := whenNoneDue_next h
      cases h2
      exact .inr (.inr (.inl ⟨k, v, rfl, h1, rfl⟩))
    | tdr k =>
      rw [exec_wr_tdr] at h
      obtain ⟨h1, h2⟩ := whenNoneDue_next h
      cases h2
      exact .inr (.inr (.inr (.inl ⟨k, v, rfl, h1, rfl⟩)))
    | tisr =>
      obtain ⟨h1, h2⟩ := whenNoneDue_next h
      cases h2
      exact .inr (.inr (.inr (.inr (.inl ⟨v, rfl, h1, rfl⟩))))
    | wtcr =>
      obtain ⟨h1, h2⟩ := whenNoneDue_next h
      cases h2
      exact .inr (.inr (.inr (.inr (.inr (.inl ⟨v, rfl, h1, rfl⟩)))))
  | rdUnknown off =>
    obtain ⟨h1, h2⟩ := whenNoneDue_next h
    split at h2
    · cases h2
      exact .inr (.inr (.inr (.inr (.inr (.inr (.inl ⟨off, rfl, h1, rfl⟩))))))
    · cases h2
  | wrUnknown off v =>
    obtain ⟨h1, h2⟩ := whenNoneDue_next h
    split at h2
    · cases h2
      exact .inr (.inr (.inr (.inr (.inr (.inr (.inr (.inl ⟨off, v, rfl, h1, rfl⟩)))))))
    · cases h2
  | configure => cases h; simp
  | reset => cases h; simp
  | snapshot =>
    obtain ⟨h1, h2⟩ := whenNoneDue_next h
    cases h2; simp [h1]
  | restore q =>
    simp only [exec_restore] at h
    split at h
    · next hv => cases h; simp [hv]
    · cases h
  | advance d =>
    simp only [exec_advance] at h
    split at h
    · cases h
    · obtain ⟨h1, h2⟩ := whenNoneDue_next h
      split at h2
      · next h0 hm =>
        cases h2
        have hd : 0 < d := by omega
        simp [h1, hm, hd]
      · cases h2
  | expire k =>
    simp only [exec_expire, expireOp] at h
    split at h
    · next hk =>
      cases h
      iterate 13 right
      exact ⟨k, rfl, hk, rfl⟩
    · cases h

/-- What R126 enables while a channel is due: what does not wait, but for an EXPIRE whose own channel is not due. -/
theorem enabledWhileDue_iff (i : Instr) :
    enabledWhileDue s i = true ↔ waitsForDue i = false ∧ ∀ k, i = .expire k → s.due k = true := by
  cases i
  case expire0 | expire1 | expire2 | expire3 | expire4 =>
    simp only [enabledWhileDue, waitsForDue, true_and, forall_chan, Instr.expire, reduceCtorEq, true_implies,
      false_implies, and_true]
  all_goals simp [enabledWhileDue, waitsForDue, forall_chan, Instr.expire]

/-- What a step can do: wait, perform the lowest due channel's expiration, perform the first operation offered, or
refuse what is offered. -/
theorem step_cases :
    (s.inputs = [] ∧ s.anyDue = false ∧ step s = .next s) ∨
    (∃ j, s.firstDue = some j ∧ offersUrgent s = false ∧ step s = exec (.expire j) s) ∨
    (∃ ws rest i, s.inputs = ws :: rest ∧ decode ws = .ok i ∧ (s.anyDue = false ∨ enabledWhileDue s i = true) ∧
      step s = exec i (s.setInputs rest)) ∨
    (∃ ws rest e, s.inputs = ws :: rest ∧ decode ws = .error e ∧ s.anyDue = false ∧
      step s = .refused (decodeRefusal e)) := by
  obtain ⟨hn, hf⟩ | ⟨j, hf, -, -⟩ := firstDue_cases s
  · cases hin : s.inputs with
    | nil => exact .inl ⟨rfl, hn, by simp [step, fetch, hf, fetchOffered, hin]⟩
    | cons ws rest =>
      cases hd : decode ws with
      | ok i => exact .inr (.inr (.inl ⟨ws, rest, i, rfl, hd, .inl hn, by simp [step, fetch, hf, fetchOffered, hin, hd]⟩))
      | error e =>
        exact .inr (.inr (.inr ⟨ws, rest, e, rfl, hd, hn, by simp [step, fetch, hf, fetchOffered, hin, hd]⟩))
  · cases hu : offersUrgent s with
    | false => exact .inr (.inl ⟨j, hf, rfl, by simp [step, fetch, hf, hu]⟩)
    | true =>
      cases hin : s.inputs with
      | nil => simp [offersUrgent, hin] at hu
      | cons ws rest =>
        cases hd : decode ws with
        | ok i =>
          have hw : enabledWhileDue s i = true := by simpa [offersUrgent, hin, hd] using hu
          exact .inr (.inr (.inl ⟨ws, rest, i, rfl, hd, .inr hw, by
            simp [step, fetch, hf, offersUrgent, fetchOffered, hin, hd, hw]⟩))
        | error e => simp [offersUrgent, hin, hd] at hu

end Sys2Proof.Machine
end

