-- ==== Sys2Proof/Laws/PerInstr.lean ====
section
/-! SUPPORT. The per-instruction family `TableRow`: the encoding of each operation carries the bits of its row of
spec/opcode_table.json, and as many operand words as its selector asks for. -/

namespace Sys2Proof.Laws

/-- The `match` and `mask` of an operation's row of spec/opcode_table.json. -/
def tableBits : Instr → Word × Word
  | .rdTcsr0 => (0x00000000, 0xFFFFFFFF)
  | .wrTcsr0 _ => (0x40000000, 0xFFFFFFFF)
  | .rdTcsr1 => (0x00000004, 0xFFFFFFFF)
  | .wrTcsr1 _ => (0x40000004, 0xFFFFFFFF)
  | .rdTicr0 => (0x00000008, 0xFFFFFFFF)
  | .wrTicr0 _ => (0x40000008, 0xFFFFFFFF)
  | .rdTicr1 => (0x0000000C, 0xFFFFFFFF)
  | .wrTicr1 _ => (0x4000000C, 0xFFFFFFFF)
  | .rdTdr0 => (0x00000010, 0xFFFFFFFF)
  | .wrTdr0 _ => (0x40000010, 0xFFFFFFFF)
  | .rdTdr1 => (0x00000014, 0xFFFFFFFF)
  | .wrTdr1 _ => (0x40000014, 0xFFFFFFFF)
  | .rdTisr => (0x00000018, 0xFFFFFFFF)
  | .wrTisr _ => (0x40000018, 0xFFFFFFFF)
  | .rdWtcr => (0x0000001C, 0xFFFFFFFF)
  | .wrWtcr _ => (0x4000001C, 0xFFFFFFFF)
  | .rdTcsr2 => (0x00000020, 0xFFFFFFFF)
  | .wrTcsr2 _ => (0x40000020, 0xFFFFFFFF)
  | .rdTcsr3 => (0x00000024, 0xFFFFFFFF)
  | .wrTcsr3 _ => (0x40000024, 0xFFFFFFFF)
  | .rdTicr2 => (0x00000028, 0xFFFFFFFF)
  | .wrTicr2 _ => (0x40000028, 0xFFFFFFFF)
  | .rdTicr3 => (0x0000002C, 0xFFFFFFFF)
  | .wrTicr3 _ => (0x4000002C, 0xFFFFFFFF)
  | .rdTdr2 => (0x00000030, 0xFFFFFFFF)
  | .wrTdr2 _ => (0x40000030, 0xFFFFFFFF)
  | .rdTdr3 => (0x00000034, 0xFFFFFFFF)
  | .wrTdr3 _ => (0x40000034, 0xFFFFFFFF)
  | .rdTcsr4 => (0x00000040, 0xFFFFFFFF)
  | .wrTcsr4 _ => (0x40000040, 0xFFFFFFFF)
  | .rdTicr4 => (0x00000048, 0xFFFFFFFF)
  | .wrTicr4 _ => (0x40000048, 0xFFFFFFFF)
  | .rdTdr4 => (0x00000050, 0xFFFFFFFF)
  | .wrTdr4 _ => (0x40000050, 0xFFFFFFFF)
  | .rdUnknown _ => (0x00000000, 0xC0000000)
  | .wrUnknown _ _ => (0x40000000, 0xC0000000)
  | .configure => (0x80000000, 0xFFFFFFFF)
  | .reset => (0x80000001, 0xFFFFFFFF)
  | .snapshot => (0x80000002, 0xFFFFFFFF)
  | .restore _ => (0x80000003, 0xFFFFFFFF)
  | .advance _ => (0x80000004, 0xFFFFFFFF)
  | .expire0 => (0x80000008, 0xFFFFFFFF)
  | .expire1 => (0x80000009, 0xFFFFFFFF)
  | .expire2 => (0x8000000A, 0xFFFFFFFF)
  | .expire3 => (0x8000000B, 0xFFFFFFFF)
  | .expire4 => (0x8000000C, 0xFFFFFFFF)

/-- The first word of `i` has the bits of its row, and the words after it are as many as it asks for. -/
def TableRow.Statement (i : Instr) : Prop :=
  ∃ sel ops, encode i = sel :: ops ∧ sel &&& (tableBits i).2 = (tableBits i).1 ∧ ops.length = operandWords sel

theorem selector_and_class (c : BitVec 2) (off : BitVec 30) : selector c off &&& 0xC0000000 = selector c 0 := by
  apply BitVec.eq_of_getLsbD_eq
  intro k hk
  simp only [selector, BitVec.getLsbD_and, BitVec.getLsbD_append]
  interval_cases k <;> simp

theorem TableRow.rdTcsr0 : TableRow.Statement .rdTcsr0 := ⟨_, _, rfl, by simp only [tableBits]; decide, by rfl⟩
theorem TableRow.wrTcsr0 (v : Word) : TableRow.Statement (.wrTcsr0 v) := ⟨_, _, rfl, by simp only [tableBits]; decide, by rfl⟩
theorem TableRow.rdTcsr1 : TableRow.Statement .rdTcsr1 := ⟨_, _, rfl, by simp only [tableBits]; decide, by rfl⟩
theorem TableRow.wrTcsr1 (v : Word) : TableRow.Statement (.wrTcsr1 v) := ⟨_, _, rfl, by simp only [tableBits]; decide, by rfl⟩
theorem TableRow.rdTicr0 : TableRow.Statement .rdTicr0 := ⟨_, _, rfl, by simp only [tableBits]; decide, by rfl⟩
theorem TableRow.wrTicr0 (v : Word) : TableRow.Statement (.wrTicr0 v) := ⟨_, _, rfl, by simp only [tableBits]; decide, by rfl⟩
theorem TableRow.rdTicr1 : TableRow.Statement .rdTicr1 := ⟨_, _, rfl, by simp only [tableBits]; decide, by rfl⟩
theorem TableRow.wrTicr1 (v : Word) : TableRow.Statement (.wrTicr1 v) := ⟨_, _, rfl, by simp only [tableBits]; decide, by rfl⟩
theorem TableRow.rdTdr0 : TableRow.Statement .rdTdr0 := ⟨_, _, rfl, by simp only [tableBits]; decide, by rfl⟩
theorem TableRow.wrTdr0 (v : Word) : TableRow.Statement (.wrTdr0 v) := ⟨_, _, rfl, by simp only [tableBits]; decide, by rfl⟩
theorem TableRow.rdTdr1 : TableRow.Statement .rdTdr1 := ⟨_, _, rfl, by simp only [tableBits]; decide, by rfl⟩
theorem TableRow.wrTdr1 (v : Word) : TableRow.Statement (.wrTdr1 v) := ⟨_, _, rfl, by simp only [tableBits]; decide, by rfl⟩
theorem TableRow.rdTisr : TableRow.Statement .rdTisr := ⟨_, _, rfl, by simp only [tableBits]; decide, by rfl⟩
theorem TableRow.wrTisr (v : Word) : TableRow.Statement (.wrTisr v) := ⟨_, _, rfl, by simp only [tableBits]; decide, by rfl⟩
theorem TableRow.rdWtcr : TableRow.Statement .rdWtcr := ⟨_, _, rfl, by simp only [tableBits]; decide, by rfl⟩
theorem TableRow.wrWtcr (v : Word) : TableRow.Statement (.wrWtcr v) := ⟨_, _, rfl, by simp only [tableBits]; decide, by rfl⟩
theorem TableRow.rdTcsr2 : TableRow.Statement .rdTcsr2 := ⟨_, _, rfl, by simp only [tableBits]; decide, by rfl⟩
theorem TableRow.wrTcsr2 (v : Word) : TableRow.Statement (.wrTcsr2 v) := ⟨_, _, rfl, by simp only [tableBits]; decide, by rfl⟩
theorem TableRow.rdTcsr3 : TableRow.Statement .rdTcsr3 := ⟨_, _, rfl, by simp only [tableBits]; decide, by rfl⟩
theorem TableRow.wrTcsr3 (v : Word) : TableRow.Statement (.wrTcsr3 v) := ⟨_, _, rfl, by simp only [tableBits]; decide, by rfl⟩
theorem TableRow.rdTicr2 : TableRow.Statement .rdTicr2 := ⟨_, _, rfl, by simp only [tableBits]; decide, by rfl⟩
theorem TableRow.wrTicr2 (v : Word) : TableRow.Statement (.wrTicr2 v) := ⟨_, _, rfl, by simp only [tableBits]; decide, by rfl⟩
theorem TableRow.rdTicr3 : TableRow.Statement .rdTicr3 := ⟨_, _, rfl, by simp only [tableBits]; decide, by rfl⟩
theorem TableRow.wrTicr3 (v : Word) : TableRow.Statement (.wrTicr3 v) := ⟨_, _, rfl, by simp only [tableBits]; decide, by rfl⟩
theorem TableRow.rdTdr2 : TableRow.Statement .rdTdr2 := ⟨_, _, rfl, by simp only [tableBits]; decide, by rfl⟩
theorem TableRow.wrTdr2 (v : Word) : TableRow.Statement (.wrTdr2 v) := ⟨_, _, rfl, by simp only [tableBits]; decide, by rfl⟩
theorem TableRow.rdTdr3 : TableRow.Statement .rdTdr3 := ⟨_, _, rfl, by simp only [tableBits]; decide, by rfl⟩
theorem TableRow.wrTdr3 (v : Word) : TableRow.Statement (.wrTdr3 v) := ⟨_, _, rfl, by simp only [tableBits]; decide, by rfl⟩
theorem TableRow.rdTcsr4 : TableRow.Statement .rdTcsr4 := ⟨_, _, rfl, by simp only [tableBits]; decide, by rfl⟩
theorem TableRow.wrTcsr4 (v : Word) : TableRow.Statement (.wrTcsr4 v) := ⟨_, _, rfl, by simp only [tableBits]; decide, by rfl⟩
theorem TableRow.rdTicr4 : TableRow.Statement .rdTicr4 := ⟨_, _, rfl, by simp only [tableBits]; decide, by rfl⟩
theorem TableRow.wrTicr4 (v : Word) : TableRow.Statement (.wrTicr4 v) := ⟨_, _, rfl, by simp only [tableBits]; decide, by rfl⟩
theorem TableRow.rdTdr4 : TableRow.Statement .rdTdr4 := ⟨_, _, rfl, by simp only [tableBits]; decide, by rfl⟩
theorem TableRow.wrTdr4 (v : Word) : TableRow.Statement (.wrTdr4 v) := ⟨_, _, rfl, by simp only [tableBits]; decide, by rfl⟩
theorem TableRow.rdUnknown (off : BitVec 30) : TableRow.Statement (.rdUnknown off) := ⟨_, _, rfl, selector_and_class 0 off, by simp [operandWords]⟩
theorem TableRow.wrUnknown (off : BitVec 30) (v : Word) : TableRow.Statement (.wrUnknown off v) := ⟨_, _, rfl, selector_and_class 1 off, by simp [operandWords]⟩
theorem TableRow.configure : TableRow.Statement .configure := ⟨_, _, rfl, by simp only [tableBits]; decide, by rfl⟩
theorem TableRow.reset : TableRow.Statement .reset := ⟨_, _, rfl, by simp only [tableBits]; decide, by rfl⟩
theorem TableRow.snapshot : TableRow.Statement .snapshot := ⟨_, _, rfl, by simp only [tableBits]; decide, by rfl⟩
theorem TableRow.restore (snap : Snapshot) : TableRow.Statement (.restore snap) := ⟨_, _, rfl, by simp only [tableBits]; decide, by rfl⟩
theorem TableRow.advance (d : Nat) : TableRow.Statement (.advance d) := ⟨_, _, rfl, by simp only [tableBits]; decide, by rfl⟩
theorem TableRow.expire0 : TableRow.Statement .expire0 := ⟨_, _, rfl, by simp only [tableBits]; decide, by rfl⟩
theorem TableRow.expire1 : TableRow.Statement .expire1 := ⟨_, _, rfl, by simp only [tableBits]; decide, by rfl⟩
theorem TableRow.expire2 : TableRow.Statement .expire2 := ⟨_, _, rfl, by simp only [tableBits]; decide, by rfl⟩
theorem TableRow.expire3 : TableRow.Statement .expire3 := ⟨_, _, rfl, by simp only [tableBits]; decide, by rfl⟩
theorem TableRow.expire4 : TableRow.Statement .expire4 := ⟨_, _, rfl, by simp only [tableBits]; decide, by rfl⟩

end Sys2Proof.Laws
end

