-- ==== Sys2Proof/Tests/Slice0.lean ====
section
/-! SUPPORT. Tests: the checks of WellFormed, every operation's words, single steps of the traces of
95_test_vectors.md (the expected values are that file's), and a state and operands that meet the hypotheses of each
statement that has some. -/

namespace Sys2Proof.Tests

open Sys2Proof Sys2Proof.Machine

/-! ### WellFormed refuses -/

theorem test_wellFormed_refuses_misaligned_read : (Instr.rdUnknown 0x45).wellFormed = false := by decide
theorem test_wellFormed_refuses_misaligned_write : (Instr.wrUnknown 0x56 0).wellFormed = false := by decide
theorem test_wellFormed_refuses_register_read : (Instr.rdUnknown 0x50).wellFormed = false := by decide
theorem test_wellFormed_refuses_register_write : (Instr.wrUnknown 0x1C 7).wellFormed = false := by decide
theorem test_wellFormed_refuses_zero_advance : (Instr.advance 0).wellFormed = false := by decide
theorem test_wellFormed_refuses_long_advance : (Instr.advance (2 ^ 64 + 1)).wellFormed = false := by decide

/-- A channel's record as RESET leaves the channel. -/
def restRecord : ChannelRecord := ⟨false, 0, 0, 0x00000005, 0⟩

/-- The record `s` of program P7, with another deadline of channel 0. -/
def recordAt (deadline : Int) : Snapshot where
  ch := #v[⟨true, deadline, 100000, 0x40000000, 100⟩, restRecord, restRecord, restRecord, restRecord]
  interruptStatus := 0
  watchdogControl := 0x00000400

theorem test_wellFormed_refuses_wide_deadline : (Instr.restore (recordAt (2 ^ 63))).wellFormed = false := by decide
theorem test_wellFormed_refuses_wide_remaining :
    (Instr.restore { recordAt 0 with ch := (recordAt 0).ch.set 4 { restRecord with remainingNs := -(2 ^ 63) - 1 } }).wellFormed
      = false := by decide

/-! ### Every operation's words (30_encoding.md R70, R71, R78; 95_test_vectors.md V-M1, V-M2) -/

theorem test_decode_control_reads :
    decode [0x00000000] = .ok .rdTcsr0 ∧ decode [0x00000004] = .ok .rdTcsr1 ∧ decode [0x00000020] = .ok .rdTcsr2
      ∧ decode [0x00000024] = .ok .rdTcsr3 ∧ decode [0x00000040] = .ok .rdTcsr4 := by decide
theorem test_decode_control_writes :
    decode [0x40000000, 0x44000000] = .ok (.wrTcsr0 0x44000000)
      ∧ decode [0x40000004, 0x40000000] = .ok (.wrTcsr1 0x40000000)
      ∧ decode [0x40000020, 0x28000000] = .ok (.wrTcsr2 0x28000000)
      ∧ decode [0x40000024, 0x48000005] = .ok (.wrTcsr3 0x48000005)
      ∧ decode [0x40000040, 0x20000001] = .ok (.wrTcsr4 0x20000001) := by decide
theorem test_decode_reload_reads :
    decode [0x00000008] = .ok .rdTicr0 ∧ decode [0x0000000C] = .ok .rdTicr1 ∧ decode [0x00000028] = .ok .rdTicr2
      ∧ decode [0x0000002C] = .ok .rdTicr3 ∧ decode [0x00000048] = .ok .rdTicr4 := by decide
theorem test_decode_reload_writes :
    decode [0x40000008, 1] = .ok (.wrTicr0 1) ∧ decode [0x4000000C, 2] = .ok (.wrTicr1 2)
      ∧ decode [0x40000028, 3] = .ok (.wrTicr2 3) ∧ decode [0x4000002C, 4] = .ok (.wrTicr3 4)
      ∧ decode [0x40000048, 5] = .ok (.wrTicr4 5) := by decide
theorem test_decode_counter_reads :
    decode [0x00000010] = .ok .rdTdr0 ∧ decode [0x00000014] = .ok .rdTdr1 ∧ decode [0x00000030] = .ok .rdTdr2
      ∧ decode [0x00000034] = .ok .rdTdr3 ∧ decode [0x00000050] = .ok .rdTdr4 := by decide
theorem test_decode_counter_writes :
    decode [0x40000010, 0] = .ok (.wrTdr0 0) ∧ decode [0x40000014, 1] = .ok (.wrTdr1 1)
      ∧ decode [0x40000030, 2] = .ok (.wrTdr2 2) ∧ decode [0x40000034, 3] = .ok (.wrTdr3 3)
      ∧ decode [0x40000050, 0xFFFFFFFF] = .ok (.wrTdr4 0xFFFFFFFF) := by decide
theorem test_decode_shared :
    decode [0x00000018] = .ok .rdTisr ∧ decode [0x40000018, 0x00000011] = .ok (.wrTisr 0x11)
      ∧ decode [0x0000001C] = .ok .rdWtcr ∧ decode [0x4000001C, 0x12345678] = .ok (.wrWtcr 0x12345678) := by decide
/-- V-M3: 0x44 is not TCSR5, 0x4C no second TICR4, 0x38 and 0x3C no second TISR and WTCR. -/
theorem test_decode_unknown :
    decode [0x00000044] = .ok (.rdUnknown 0x44) ∧ decode [0x0000004C] = .ok (.rdUnknown 0x4C)
      ∧ decode [0x0000003C] = .ok (.rdUnknown 0x3C) ∧ decode [0x40000038, 0xFFFFFFFF] = .ok (.wrUnknown 0x38 0xFFFFFFFF)
      ∧ decode [0x40000080, 9] = .ok (.wrUnknown 0x80 9) := by decide
theorem test_decode_host_and_expire :
    decode [0x80000000] = .ok .configure ∧ decode [0x80000001] = .ok .reset ∧ decode [0x80000002] = .ok .snapshot
      ∧ decode [0x80000008] = .ok .expire0 ∧ decode [0x80000009] = .ok .expire1 ∧ decode [0x8000000A] = .ok .expire2
      ∧ decode [0x8000000B] = .ok .expire3 ∧ decode [0x8000000C] = .ok .expire4 := by decide
/-- The operand words are the model's (log entry 4). -/
theorem test_decode_advance :
    decode [0x80000004, 69999, 0] = .ok (.advance 70000)
      ∧ decode [0x80000004, 0xFFFFFFFF, 0xFFFFFFFF] = .ok (.advance (2 ^ 64)) := by decide

/-- The words of program P7's record (R183; log entry 4). -/
def recordWords : List Word :=
  [1, 100000, 0, 100000, 0, 0x40000000, 100] ++ [0, 0, 0, 0, 0, 5, 0] ++ [0, 0, 0, 0, 0, 5, 0] ++ [0, 0, 0, 0, 0, 5, 0]
    ++ [0, 0, 0, 0, 0, 5, 0] ++ [0, 0x00000400]

theorem test_decode_restore : decode (0x80000003 :: recordWords) = .ok (.restore (recordAt 100000)) := by decide
theorem test_decode_refuses :
    decode [] = .error .noSelector ∧ decode [0xC0000000] = .error .reservedClass
      ∧ decode [0x80000005] = .error .unknownEvent ∧ decode [0x8000000D] = .error .unknownEvent
      ∧ decode [0x00000002] = .error .misaligned ∧ decode [0x40000000] = .error .badOperands
      ∧ decode (0x80000003 :: 2 :: recordWords.tail) = .error .badOperands := by decide
theorem test_decodeTableWord :
    decodeTableWord 32 0x00000050 = some .rdTdr4 ∧ decodeTableWord 64 0x0000003240000008 = some (.wrTicr0 50)
      ∧ decodeTableWord 32 0x80000004 = some (.advance 1) := by decide

/-! ### Single steps (95_test_vectors.md; NS_PER_TICK = 1000 unless said otherwise) -/

/-- A configuration with the given reference frequency. -/
def cfgOf (hz : Nat) (h : 120 ≤ hz ∧ hz ≤ 1000000000) : Config := ⟨⟨hz, h⟩, ⟨0x1000, by decide⟩⟩

/-- The reset state with `REF_HZ = 1000000`. -/
def fresh : State := { State.reset with cfg := cfgOf 1000000 (by decide) }

/-- `fresh` with channel `i` as given, at time `now`. -/
def withChannel (i : Fin 5) (c : Channel) (now : Int) : State := (fresh.setChan i c).setNow now

/-- State A of V-C2, for channel `i`. -/
def stateA (i : Fin 5) : State := withChannel i ⟨0x40000000, 100, 100000, 100000, true, false⟩ 30000

/-- State B of V-C2, for channel `i`. -/
def stateB (i : Fin 5) : State := withChannel i ⟨0x00000000, 100, 70000, 100000, false, false⟩ 30000

/-- The state a step leaves when it performs the one operation with these words; `s` where it leaves none. -/
def after (s : State) (ws : List Word) : State :=
  match step (s.setInputs [ws]) with
  | .next t => t
  | .fault _ => s
  | .refused _ => s

/-- What the operation with these words answers. -/
def answered (s : State) (ws : List Word) : Option Answer := (after s ws).resp

/-- The refusal an outcome is. -/
def refusal : Result → Option Refusal
  | .refused r => some r
  | .next _ => none
  | .fault _ => none

/-- V-M1. -/
theorem test_control_reads_from_reset :
    [0x00000000, 0x00000004, 0x00000020, 0x00000024, 0x00000040].map (fun w => answered fresh [w])
      = List.replicate 5 (some (.data 5)) := by decide +kernel
theorem test_reload_reads_from_reset :
    [0x00000008, 0x0000000C, 0x00000028, 0x0000002C, 0x00000048].map (fun w => answered fresh [w])
      = List.replicate 5 (some (.data 0)) := by decide +kernel
theorem test_counter_reads_from_reset :
    [0x00000010, 0x00000014, 0x00000030, 0x00000034, 0x00000050].map (fun w => answered fresh [w])
      = List.replicate 5 (some (.data 0)) := by decide +kernel
theorem test_shared_reads_from_reset :
    answered fresh [0x18] = some (.data 0) ∧ answered fresh [0x1C] = some (.data 0x400) := by decide +kernel
/-- V-M1, last row. -/
theorem test_read_unknown :
    [0x38, 0x3C, 0x44, 0x4C, 0x54].map (fun w => ((after fresh [w]).resp, (after fresh [w]).diags))
      = List.replicate 5 (some (.data 0), [.unknownOffsetRead]) := by decide +kernel
/-- V-S2. -/
theorem test_write_unknown :
    after fresh [0x40000038, 0xFFFFFFFF] = { fresh with inputs := [], diags := [.unknownOffsetWrite] } := by decide
/-- V-M2: stopped, divisor 6. -/
theorem test_reload_writes_own_channel :
    (after fresh [0x40000008, 1]).chan 0 = ⟨5, 1, 6000, 0, false, false⟩
      ∧ (after fresh [0x4000000C, 2]).chan 1 = ⟨5, 2, 12000, 0, false, false⟩
      ∧ (after fresh [0x40000028, 3]).chan 2 = ⟨5, 3, 18000, 0, false, false⟩
      ∧ (after fresh [0x4000002C, 4]).chan 3 = ⟨5, 4, 24000, 0, false, false⟩
      ∧ (after fresh [0x40000048, 5]).chan 4 = ⟨5, 5, 30000, 0, false, false⟩ := by decide
/-- V-T1: a reload write restarts a running channel. -/
theorem test_reload_write_restarts :
    (after (stateA 0) [0x40000008, 50]).chan 0 = ⟨0x40000000, 50, 50000, 80000, true, false⟩ := by decide
/-- V-C1: bit 29 is interrupt-enable. -/
theorem test_control_write_bit29 :
    (after fresh [0x40000000, 0x20000000]).diags = []
      ∧ ((after fresh [0x40000000, 0x20000000]).chan 0).control = 0x20000000 := by decide
/-- S7, first row: every masking step, and CRST at the written divisor. -/
theorem test_control_write_all_ones_but_enable :
    let s := withChannel 0 ⟨0x00000005, 7, 42000, 0, false, false⟩ 0
    (after s [0x40000000, 0xBFFFFFFF]).chan 0 = ⟨0xB80000FF, 7, 1792000, 0, false, false⟩
      ∧ (after s [0x40000000, 0xBFFFFFFF]).diags = [.reservedBits, .readonlyBit] := by decide
/-- V-C2, the rows that start in B. -/
theorem test_control_write_stopped :
    (after (stateB 1) [0x40000004, 0x00000000]).chan 1 = ⟨0, 100, 70000, 100000, false, false⟩
      ∧ (after (stateB 1) [0x40000004, 0x04000000]).chan 1 = ⟨0, 100, 100000, 100000, false, false⟩
      ∧ (after (stateB 1) [0x40000004, 0x40000000]).chan 1 = ⟨0x40000000, 100, 70000, 100000, true, false⟩
      ∧ (after (stateB 1) [0x40000004, 0x44000000]).chan 1 = ⟨0x40000000, 100, 100000, 130000, true, false⟩ := by decide
/-- V-C2, the rows that start in A, among them V-C4. -/
theorem test_control_write_running :
    (after (stateA 2) [0x40000020, 0x40000000]).chan 2 = ⟨0x40000000, 100, 100000, 100000, true, false⟩
      ∧ (after (stateA 2) [0x40000020, 0x44000000]).chan 2 = ⟨0x40000000, 100, 100000, 130000, true, false⟩
      ∧ (after (stateA 2) [0x40000020, 0x00000000]).chan 2 = ⟨0, 100, 70000, 100000, false, false⟩
      ∧ (after (stateA 2) [0x40000020, 0x04000000]).chan 2 = ⟨0, 100, 70000, 100000, false, false⟩ := by decide
/-- V-C3: CRST with a new prescale uses the new divisor. -/
theorem test_control_write_new_divisor :
    (after (stateB 3) [0x40000024, 0x04000003]).chan 3 = ⟨3, 100, 400000, 100000, false, false⟩ := by decide
/-- S5: the line follows interrupt-enable, with the latch set. -/
theorem test_control_write_line :
    let s := (withChannel 4 ⟨0, 100, 0, 100000, false, false⟩ 100000).setTisr 0x10
    ((after s [0x40000040, 0x20000000]).chan 4).irq = true ∧ (after s [0x40000040, 0x20000000]).tisr = 0x10 := by decide
/-- V-C2, last column, and V-C5. -/
theorem test_counter_read :
    answered (stateA 0) [0x10] = some (.data 70) ∧ answered (stateB 4) [0x50] = some (.data 70)
      ∧ answered ((stateA 0).setNow 99001) [0x10] = some (.data 0)
      ∧ answered (withChannel 0 ⟨0x40000001, 100, 100000, 100000, true, false⟩ 40000) [0x10] = some (.data 30) := by decide
/-- V-T6: the low 32 bits of the quotient. -/
theorem test_counter_read_truncates :
    answered (withChannel 0 ⟨0, 0xFFFFFFFF, 1099511627520000, 0, false, false⟩ 0) [0x10]
      = some (.data 0xFFFFFF00) := by decide
/-- V-T4: a counter write is ignored. -/
theorem test_counter_write :
    after (stateA 0) [0x40000010, 0] = { stateA 0 with inputs := [], diags := [.readonlyRegister] }
      ∧ after fresh [0x40000050, 0xFFFFFFFF] = { fresh with inputs := [], diags := [.readonlyRegister] } := by decide
/-- S6 and V-S3. -/
theorem test_status_write :
    (after (fresh.setTisr 0x11) [0x40000018, 0x01]).tisr = 0x10
      ∧ (after (fresh.setTisr 0x11) [0x40000018, 0xFFFFFFEE]).tisr = 0x11
      ∧ (after fresh [0x40000018, 0xFFFFFFFF]).tisr = 0 := by decide
/-- S6, the eager recomputation: the line falls with its latch, another line stays. -/
theorem test_status_write_lines :
    let s := ((fresh.setChan 0 ⟨0x20000000, 200, 0, 200000, false, true⟩).setChan 4
      ⟨0x20000001, 100, 0, 200000, false, true⟩).setTisr 0x11
    ((after s [0x40000018, 1]).chan 0).irq = false ∧ ((after s [0x40000018, 1]).chan 4).irq = true := by decide
/-- V-S1. -/
theorem test_watchdog_write :
    after fresh [0x4000001C, 0xFFFFFFFF] = { fresh with inputs := [], wtcr := 0xFFFFFFFF, diags := [.unimplemented] } := by
  decide
/-- V-E1: time reaches the deadline and does not pass it. -/
theorem test_advance :
    (after (stateA 0) [0x80000004, 69999, 0]).now = 100000
      ∧ refusal (step ((stateA 0).setInputs [[0x80000004, 70000, 0]])) = some .passesDeadline := by decide
/-- P1: a one-shot expiration with interrupt-enable. -/
theorem test_expire_oneShot :
    let s := withChannel 0 ⟨0x60000000, 100, 100000, 100000, true, false⟩ 100000
    (after s [0x80000008]).tisr = 1
      ∧ (after s [0x80000008]).chan 0 = ⟨0x20000000, 100, 0, 100000, false, true⟩ := by decide
/-- P2: a periodic expiration re-arms. -/
theorem test_expire_periodic :
    let s := withChannel 3 ⟨0x48000005, 50, 180000, 1300000, true, false⟩ 1300000
    (after s [0x8000000B]).tisr = 8
      ∧ (after s [0x8000000B]).chan 3 = ⟨0x48000005, 50, 300000, 1600000, true, false⟩ := by decide
/-- P3 and P5: the other channels' expirations latch their own bits. -/
theorem test_expire_others :
    let due (i : Fin 5) := withChannel i ⟨0x40000001, 100, 200000, 200000, true, false⟩ 200000
    (after (due 1) [0x80000009]).tisr = 2 ∧ (after (due 2) [0x8000000A]).tisr = 4
      ∧ (after (due 4) [0x8000000C]).tisr = 16 := by decide
/-- V-E1: while a channel is due, the step performs its expiration and the offered read waits. -/
theorem test_owed_expiration_first :
    let s := ((stateA 0).setNow 100000).setInputs [[0x10]]
    ∃ t, step s = .next t ∧ t.tisr = 1 ∧ t.inputs = [[0x10]] := ⟨_, rfl, by decide⟩
/-- V-R1 and V-R2. -/
theorem test_reset :
    after (stateA 0) [0x80000001] = fresh.setNow 30000
      ∧ after ((stateA 0).setNow 100000) [0x80000001] = fresh.setNow 100000 := by decide
theorem test_configure : after (stateA 0) [0x80000000] = fresh.setNow 30000 := by decide
/-- P7. -/
theorem test_snapshot : answered (stateA 0) [0x80000002] = some (.record (recordAt 100000)) := by decide
theorem test_restore : after (fresh.setNow 30000) (0x80000003 :: recordWords) = (stateA 0).setInputs [] := by decide
/-- V-H2: records that are refused. -/
theorem test_restore_refuses :
    let bad (r : ChannelRecord) : Snapshot := { recordAt 0 with ch := (recordAt 0).ch.set 0 r }
    refusal (exec (.restore (bad ⟨false, 0, 0, 0x40000000, 0⟩)) fresh) = some .invalidSnapshot
      ∧ refusal (exec (.restore (bad ⟨false, 0, 0, 0x02000000, 0⟩)) fresh) = some .invalidSnapshot
      ∧ refusal (exec (.restore (bad ⟨false, 0, 0, 0x04000000, 0⟩)) fresh) = some .invalidSnapshot
      ∧ refusal (exec (.restore { recordAt 0 with interruptStatus := 0x20 }) fresh) = some .invalidSnapshot := by decide
/-- V-A3, V-A4, V-A8, V-A10 to V-A13. -/
theorem test_conversions :
    countToNs 1000 1000 6 = 6000000 ∧ countToNs 1000 0xFFFFFFFF 256 = 1099511627520000
      ∧ nsToCount 1000 1999 1 = 1 ∧ nsToCount 1000 180000 6 = 30 ∧ nsToCount 1000 5999 6 = 0
      ∧ nsToCount 1000 1099511627520000 256 = 0xFFFFFFFF ∧ nsToCount 1000 1099511627520000 1 = 0xFFFFFF00 := by decide
/-- V-T5: another tick. -/
theorem test_other_tick :
    let s := { withChannel 0 ⟨0x40000000, 1000, 40000, 40000, true, false⟩ 39 with cfg := cfgOf 25000000 (by decide) }
    answered s [0x10] = some (.data 999) := by decide
/-- From reset, the host's own two questions of one word. -/
theorem test_withFetchWord :
    (∃ t, step (State.reset.withFetchWord 32 0x0000001C) = .next t ∧ t.resp = some (.data 0x400))
      ∧ ∃ t, step (State.reset.withFetchWord 32 0x80000009) = .next t ∧ t.tisr = 2 :=
  ⟨⟨_, rfl, rfl⟩, ⟨_, rfl, by decide⟩⟩
/-- D6: what the boundary lets through. -/
theorem test_boundary :
    reachesCore fresh.cfg ⟨false, 0xFFC, 4, 0, 0⟩ = true ∧ reachesCore fresh.cfg ⟨false, 0x1000, 4, 0, 0⟩ = false
      ∧ reachesCore fresh.cfg ⟨true, 0x18, 2, 0, 0⟩ = false ∧ reachesCore fresh.cfg ⟨true, 0x1A, 4, 0, 0⟩ = false := by decide

/-! ### The hypotheses of the statements are met -/

/-- The state an operation leaves; `s` where it leaves none. -/
def done (i : Instr) (s : State) : State :=
  match exec i s with
  | .next t => t
  | .fault _ => s
  | .refused _ => s

/-- State A at its deadline: channel `i` is due, one-shot. -/
def dueA (i : Fin 5) : State := (stateA i).setNow 100000

/-- Channel `i` periodic with reload 0, due: the livelock of V-E5. -/
def livelocked (i : Fin 5) : State := withChannel i ⟨0x48000000, 0, 0, 0, true, false⟩ 0

/-- A state no run reaches: channel 0 runs without a pending callback, past its deadline. -/
def broken : State := withChannel 0 ⟨0x40000000, 100, 100000, 100000, false, false⟩ 100000

theorem witness_DecodeOfEncode :
    (Instr.rdUnknown 0x3FFFFFFC).wellFormed = true ∧ (Instr.advance 1).wellFormed = true
      ∧ (Instr.advance (2 ^ 64)).wellFormed = true ∧ (Instr.restore (recordAt (-(2 ^ 63)))).wellFormed = true
      ∧ (Instr.restore (recordAt (2 ^ 63 - 1))).wellFormed = true ∧ (Instr.wrTdr4 0xFFFFFFFF).wellFormed = true := by
  decide
theorem witness_EncodeOfDecode : decode [0x80000004, 0, 0] = .ok (.advance 1) := by decide
theorem witness_OffsetDecodeIsArithmetic : 0x50 % 4 = 0 ∧ decodeOffset 0x50 = some (.tdr 4) := by decide
theorem witness_AccessDecodesToTheRegisterOfTheMap :
    (Reg.tdr 4).offset = (0x50 : BitVec 30).toNat ∧ (0x50 : BitVec 30).toNat % 4 = 0
      ∧ (0x54 : BitVec 30).toNat % 4 = 0 ∧ ∀ r : Reg, r.offset ≠ (0x54 : BitVec 30).toNat := by
  refine ⟨rfl, rfl, rfl, fun r => ?_⟩
  cases r with
  | tcsr i | ticr i | tdr i => revert i; decide
  | tisr | wtcr => decide
theorem witness_StepRunsTheDecodedOperation :
    ((stateA 0).setInputs [[0x10], [0x18]]).inputs = [0x10] :: [[0x18]] ∧ decode [0x10] = .ok .rdTdr0
      ∧ NoneDue ((stateA 0).setInputs [[0x10], [0x18]]) := ⟨rfl, by decide, by decide⟩
theorem witness_StepRunsTheDecodedOperation_urgent :
    ((dueA 0).setInputs [[0x80000001]]).inputs = [0x80000001] :: [] ∧ decode [0x80000001] = .ok .reset
      ∧ waitsForDue .reset = false ∧ (∀ k, Instr.reset = .expire k → ((dueA 0).setInputs [[0x80000001]]).due k = true)
      ∧ ¬NoneDue ((dueA 0).setInputs [[0x80000001]]) :=
  ⟨rfl, by decide, rfl, by decide, by decide⟩
theorem witness_OwedExpirationComesFirst :
    ((dueA 4).setInputs [[0x10]]).due 4 = true ∧ (∀ j, j < 4 → ((dueA 4).setInputs [[0x10]]).due j = false)
      ∧ decode [0x10] = .ok .rdTdr0 ∧ waitsForDue .rdTdr0 = true := by decide
theorem witness_OwedExpirationComesFirst_notDue :
    ((dueA 4).setInputs [[0x80000008]]).due 4 = true ∧ (∀ j, j < 4 → ((dueA 4).setInputs [[0x80000008]]).due j = false)
      ∧ decode [0x80000008] = .ok (.expire 0) := by decide
/-- R132: the owed expiration is not withheld for an offered EXPIRE of a channel that is not due. -/
theorem test_owed_expiration_before_one_not_due :
    ∃ t, step ((dueA 4).setInputs [[0x80000008]]) = .next t ∧ t.tisr = 0x10 ∧ t.inputs = [[0x80000008]] :=
  ⟨_, rfl, by decide⟩
theorem witness_NothingOfferedWaits : fresh.inputs = [] ∧ NoneDue fresh := by decide
theorem witness_OnlyEnabledOperationsTakePlace :
    exec (.advance 70000) (stateA 0) = .next (done (.advance 70000) (stateA 0))
      ∧ exec (.expire 4) (dueA 4) = .next (done (.expire 4) (dueA 4)) := ⟨rfl, rfl⟩
theorem witness_AccessesTheCoreNeverSeesAreRefused :
    (fresh.setInputs [[0x40000053, 7]]).inputs = (0x40000053 :: [7]) :: [] ∧ selClass 0x40000053 = 1
      ∧ (selField 0x40000053).toNat % 4 ≠ 0 ∧ NoneDue (fresh.setInputs [[0x40000053, 7]])
      ∧ fresh.cfg.regionSize.val ≤ (0x1000 : BitVec 30).toNat := ⟨rfl, by decide, by decide, by decide, by decide⟩
theorem witness_AccessesTheCoreNeverSeesAreRefused_boundary :
    let a (off bytes : Nat) : BusAccess := ⟨true, off, bytes, 7, 0⟩
    ((a 0x18 8).bytes ≠ 4 ∧ (a 0x1A 4).off % 4 ≠ 0 ∧ fresh.cfg.regionSize.val ≤ (a 0x1000 4).off)
      ∧ (a 0xFFC 4).bytes = 4 ∧ (a 0xFFC 4).off % 4 = 0 ∧ (a 0xFFC 4).off < fresh.cfg.regionSize.val := by decide
/-- Also for CountToNanoseconds and CountRoundTrip, at the largest divisor. -/
theorem witness_NanosecondsRoundDown :
    (1 ≤ 256 ∧ 256 ≤ 256) ∧ fresh.cfg.nsPerTick = 1000
      ∧ 1099511627775999 / (fresh.cfg.nsPerTick * 256) < 2 ^ 32 := by decide
theorem witness_ReadsChangeNothing :
    NoneDue (stateA 0) ∧ (0xFFC : BitVec 30).toNat < (stateA 0).cfg.regionSize.val := by decide
theorem witness_ReadReload :
    exec (.wr (.ticr 4) 50) (stateA 4) = .next (done (.wr (.ticr 4) 50) (stateA 4))
      ∧ NoneDue (done (.wr (.ticr 4) 50) (stateA 4)) ∧ (exec .reset (stateA 4) = .next (done .reset (stateA 4)))
      ∧ exec (.wr (.ticr 0) 50) (stateA 4) = .next (done (.wr (.ticr 0) 50) (stateA 4)) := ⟨rfl, by decide, rfl, rfl⟩
theorem witness_WatchdogWrite : exec (.wrWtcr 7) (stateA 0) = .next (done (.wrWtcr 7) (stateA 0)) := rfl
theorem witness_ReadCounter :
    (NoneDue ((stateA 4).setNow 99999) ∧ (((stateA 4).setNow 99999).chan 4).armed = true
        ∧ running (((stateA 4).setNow 99999).chan 4).control = true)
      ∧ NoneDue fresh ∧ 0 ≤ (fresh.chan 4).remainingNs ∧ running (fresh.chan 4).control = false := by decide
theorem witness_RunningCounterNeverRises :
    let s := stateA 0
    let a := s.answer 70
    let t := a.setNow 99999
    (s.chan 0).armed = true ∧ running (s.chan 0).control = true
      ∧ ((s.chan 0).deadlineNs - s.now).toNat / (s.npt * prescaleDivisor (s.chan 0).control) < 2 ^ 32
      ∧ exec (.rd (.tdr 0)) s = .next a ∧ a.resp = some (.data 70) ∧ exec (.advance 69999) a = .next t
      ∧ exec (.rd (.tdr 0)) t = .next (t.answer 0) ∧ (t.answer 0).resp = some (.data 0) :=
  ⟨by decide, by decide, by decide, rfl, rfl, rfl, rfl, rfl⟩
theorem witness_ReadUnknownOffset :
    (0x44 : BitVec 30).toNat % 4 = 0 ∧ (0x44 : BitVec 30).toNat < fresh.cfg.regionSize.val ∧ NoneDue fresh
      ∧ ∀ r : Reg, r.offset ≠ (0x44 : BitVec 30).toNat := by
  refine ⟨rfl, by decide, by decide, fun r => ?_⟩
  cases r with
  | tcsr i | ticr i | tdr i => revert i; decide
  | tisr | wtcr => decide
theorem witness_WriteUnknownOffset :
    (0x4C : BitVec 30).toNat % 4 = 0 ∧ (0x4C : BitVec 30).toNat < (stateA 0).cfg.regionSize.val ∧ NoneDue (stateA 0)
      ∧ ∀ r : Reg, r.offset ≠ (0x4C : BitVec 30).toNat := by
  refine ⟨rfl, by decide, by decide, fun r => ?_⟩
  cases r with
  | tcsr i | ticr i | tdr i => revert i; decide
  | tisr | wtcr => decide
theorem witness_ControlWriteStores :
    let s := (stateA 4).setNow 99999
    NoneDue s ∧ Disables 4 0x04000000 s ∧ s.now < (s.chan 4).deadlineNs := by decide
theorem witness_ControlWriteTiming_stopped :
    let s := stateB 0
    (s.chan 0).armed = running (s.chan 0).control
      ∧ exec (.wr (.tcsr 0) 0) s = .next (done (.wr (.tcsr 0) 0) s)
      ∧ exec (.wr (.tcsr 0) 0x04000000) s = .next (done (.wr (.tcsr 0) 0x04000000) s)
      ∧ exec (.wr (.tcsr 0) 0x40000000) s = .next (done (.wr (.tcsr 0) 0x40000000) s)
      ∧ exec (.wr (.tcsr 0) 0x44000000) s = .next (done (.wr (.tcsr 0) 0x44000000) s) :=
  ⟨by decide, rfl, rfl, rfl, rfl⟩
theorem witness_ControlWriteTiming_running :
    let s := stateA 0
    (s.chan 0).armed = running (s.chan 0).control
      ∧ exec (.wr (.tcsr 0) 0x40000000) s = .next (done (.wr (.tcsr 0) 0x40000000) s)
      ∧ exec (.wr (.tcsr 0) 0x44000000) s = .next (done (.wr (.tcsr 0) 0x44000000) s)
      ∧ exec (.wr (.tcsr 0) 0x04000000) s = .next (done (.wr (.tcsr 0) 0x04000000) s) := ⟨by decide, rfl, rfl, rfl⟩
theorem witness_ControlWriteInterruptLine :
    let s := stateB 0
    exec (.wr (.tcsr 0) 0) s = .next (done (.wr (.tcsr 0) 0) s) ∧ anySet 0 maskIE = anySet (s.chan 0).control maskIE
      ∧ exec (.wr (.tcsr 0) 0x20000000) s = .next (done (.wr (.tcsr 0) 0x20000000) s)
      ∧ anySet 0x20000000 maskIE ≠ anySet (s.chan 0).control maskIE := ⟨rfl, by decide, rfl, by decide⟩
theorem witness_ReservedAndReadonlyBitsAreIgnored :
    exec (.wr (.tcsr 0) 0x03FFFF00) (stateB 0) = .next (done (.wr (.tcsr 0) 0x03FFFF00) (stateB 0))
      ∧ exec (.wr (.tcsr 0) 0x03FFFF00) broken = .fault (.internalInvariantViolation 0) := ⟨rfl, rfl⟩
theorem witness_DiagnosticsOfOneOperation :
    exec (.wr (.tcsr 0) 0x03FFFF00) fresh = .next (done (.wr (.tcsr 0) 0x03FFFF00) fresh)
      ∧ (done (.wr (.tcsr 0) 0x03FFFF00) fresh).diags = [.reservedBits, .readonlyBit] := ⟨rfl, rfl⟩
theorem witness_FatalAssertionExactly :
    NoneDue broken ∧ Disables 0 0 broken ∧ (broken.chan 0).deadlineNs - broken.now ≤ 0
      ∧ exec (.wr (.tcsr 0) 0) broken = .fault (.internalInvariantViolation 0) :=
  ⟨by decide, by decide, by decide, rfl⟩
theorem witness_ReloadWrite :
    NoneDue (stateA 4) ∧ running ((stateA 4).chan 4).control = true ∧ NoneDue (stateB 4)
      ∧ running ((stateB 4).chan 4).control = false := by decide
/-- For the statements whose one hypothesis on the state is `NoneDue`: ReadControl, ReadStatus, ReadWatchdog,
CounterWriteIgnored, StatusWriteClears, WatchdogWrite (first part), SnapshotAnswersTheState. -/
theorem witness_NoneDue : NoneDue ((stateA 4).setNow 99999) := by decide
theorem witness_ClearLaws :
    let s := fresh.setTisr 0x11
    NoneDue s ∧ BlockInv s ∧ exec (.wrTisr s.tisr) s = .next (done (.wrTisr s.tisr) s)
      ∧ exec (.wrTisr 1) s = .next (done (.wrTisr 1) s) ∧ (done (.wrTisr 1) s).tisr.getLsbD 4 = true
      ∧ exec (.wrTisr (BitVec.ofNat 32 (2 ^ 4))) s = .next (done (.wrTisr (BitVec.ofNat 32 (2 ^ 4))) s) :=
  ⟨by decide, by decide, rfl, rfl, by decide, rfl⟩
theorem witness_AccessIsThePortsFunction :
    NoneDue (stateA 0) ∧ (0xFFC : BitVec 30).toNat % 4 = 0 ∧ (0xFFC : BitVec 30).toNat < (stateA 0).cfg.regionSize.val := by
  decide
theorem witness_NoAccessFails :
    BlockInv (stateA 0) ∧ NoneDue (stateA 0) ∧ (0xFFF : BitVec 30).toNat < (stateA 0).cfg.regionSize.val := by decide
theorem witness_AdvanceMovesOnlyTime :
    (0 < 70000 ∧ NoneDue (stateA 4)
        ∧ ∀ k, ((stateA 4).chan k).armed = true → (stateA 4).now + 70000 ≤ ((stateA 4).chan k).deadlineNs)
      ∧ ((stateA 4).chan 4).armed = true ∧ ((stateA 4).chan 4).deadlineNs < (stateA 4).now + 70001 := by decide
theorem witness_ExpireOneShot :
    (dueA 4).due 4 = true ∧ running ((dueA 4).chan 4).control = true
      ∧ anySet ((dueA 4).chan 4).control maskPERIODIC = false := by decide
theorem witness_ExpirePeriodic :
    let s := withChannel 3 ⟨0x48000005, 50, 180000, 1300000, true, false⟩ 1300000
    s.due 3 = true ∧ running (s.chan 3).control = true ∧ anySet (s.chan 3).control maskPERIODIC = true
      ∧ s.now = (s.chan 3).deadlineNs := by decide
theorem witness_ExpireStaleOrNotDue :
    let s := withChannel 2 ⟨0x00000000, 50, 0, 10, true, false⟩ 10
    s.due 2 = true ∧ running (s.chan 2).control = false ∧ (stateA 2).due 2 = false := by decide
theorem witness_ExpirationsCommute :
    let s := (dueA 0).setChan 4 ⟨0x48000001, 100, 200000, 100000, true, false⟩
    (4 : Fin 5) ≠ 0 ∧ s.due 4 = true ∧ s.due 0 = true := by decide
theorem witness_ExpirationsAreNotCounted :
    let s := (dueA 3).setTisr 8
    exec (.expire 3) s = .next (done (.expire 3) s) ∧ s.tisr.getLsbD 3 = true
      ∧ (s.chan 3).irq = anySet (s.chan 3).control maskIE := ⟨rfl, by decide, by decide⟩
theorem witness_ZeroPeriodLivelock : Livelocked 0 (livelocked 0) ∧ waitsForDue (.advance 1) = true := by decide
theorem witness_ZeroDurationIsDueAtOnce :
    exec (.wr (.tcsr 0) 0x60000000) fresh = .next (done (.wr (.tcsr 0) 0x60000000) fresh)
      ∧ running (fresh.chan 0).control = false ∧ running 0x60000000 = true ∧ anySet 0x60000000 maskCRST = false
      ∧ (fresh.chan 0).remainingNs = 0 := ⟨rfl, by decide, by decide, by decide, by decide⟩
theorem witness_LatchRisesOnlyByExpiration :
    (exec (.expire 4) (dueA 4) = .next (done (.expire 4) (dueA 4)) ∧ (dueA 4).tisr.getLsbD 4 = false
        ∧ (done (.expire 4) (dueA 4)).tisr.getLsbD 4 = true)
      ∧ exec .reset (fresh.setTisr 0x10) = .next (done .reset (fresh.setTisr 0x10))
      ∧ (fresh.setTisr 0x10).tisr.getLsbD 4 = true ∧ (done .reset (fresh.setTisr 0x10)).tisr.getLsbD 4 = false :=
  ⟨⟨rfl, by decide, by decide⟩, rfl, by decide, by decide⟩
theorem witness_OnlyAdvanceMovesTime :
    exec (.wrTisr 1) (stateA 0) = .next (done (.wrTisr 1) (stateA 0))
      ∧ step ((stateA 0).setInputs [[0x80000004, 0, 0]]) = .next (after (stateA 0) [0x80000004, 0, 0]) := ⟨rfl, rfl⟩
theorem witness_ProgrammedDelayIsExact :
    let a := done (.wr (.tcsr 0) 0x00000000) fresh
    let b := done (.wr (.ticr 0) 100) a
    let c := done (.wr (.tcsr 0) (0x00000000 ||| maskCEN)) b
    running (fresh.chan 0).control = (fresh.chan 0).armed ∧ running 0x00000000 = false
      ∧ anySet 0x00000000 maskCRST = false ∧ exec (.wr (.tcsr 0) 0x00000000) fresh = .next a
      ∧ exec (.wr (.ticr 0) 100) a = .next b ∧ exec (.wr (.tcsr 0) (0x00000000 ||| maskCEN)) b = .next c
      ∧ exec (.rd (.tdr 0)) c = .next (done (.rd (.tdr 0)) c) :=
  ⟨by decide, by decide, by decide, rfl, rfl, rfl, rfl⟩
theorem witness_PauseAndResumeKeepTheRest :
    let s := stateA 0
    let a := done (.wr (.tcsr 0) 0) s
    let b := done (.advance 12345) a
    let c := done (.wr (.tcsr 0) 0x40000000) b
    (s.chan 0).armed = true ∧ Disables 0 0 s ∧ exec (.wr (.tcsr 0) 0) s = .next a
      ∧ exec (.advance 12345) a = .next b ∧ running 0x40000000 = true ∧ anySet 0x40000000 maskCRST = false
      ∧ exec (.wr (.tcsr 0) 0x40000000) b = .next c := ⟨by decide, by decide, rfl, rfl, by decide, by decide, rfl⟩
theorem witness_RestoreLoadsValidRecords :
    validSnapshot fresh.npt (recordAt 100000) = true
      ∧ validSnapshot fresh.npt { recordAt 100000 with interruptStatus := 0x20 } = false := by decide
theorem witness_SnapshotRoundTrip :
    let s := stateA 0
    BlockInv s ∧ (∀ i, (s.chan i).remainingNs ≤ maxDuration s.npt) ∧ exec .snapshot s = .next (s.answerRecord (recordAt 100000))
      ∧ (s.answerRecord (recordAt 100000)).resp = some (.record (recordAt 100000))
      ∧ (fresh.setNow 30000).now = s.now ∧ (fresh.setNow 30000).cfg = s.cfg :=
  ⟨by decide, by decide, rfl, rfl, rfl, rfl⟩
theorem witness_ChannelOperationsStayInTheirChannel :
    exec (.wr (.tcsr 4) 0x44000000) (stateB 4) = .next (done (.wr (.tcsr 4) 0x44000000) (stateB 4))
      ∧ exec (.expire 4) (dueA 4) = .next (done (.expire 4) (dueA 4)) := ⟨rfl, rfl⟩
theorem witness_ChannelDependsOnItselfAlone :
    let s := stateA 0
    let s' := ((stateA 0).setChan 1 ⟨0, 7, 7000, 0, false, false⟩).setTisr 2
    s'.chan 0 = s.chan 0 ∧ s'.tisr.getLsbD 0 = s.tisr.getLsbD 0 ∧ s'.now = s.now ∧ s'.cfg = s.cfg
      ∧ exec (.wr (.tcsr 0) 0) s = .next (done (.wr (.tcsr 0) 0) s)
      ∧ exec (.wr (.tcsr 0) 0) s' = .next (done (.wr (.tcsr 0) 0) s') :=
  ⟨by decide, by decide, rfl, rfl, rfl, rfl⟩
theorem witness_StepKeepsTheBlockInvariants :
    let s := (dueA 0).setInputs [[0x18]]
    BlockInv s ∧ step s = .next (done (.expire 0) s) := ⟨by decide, rfl⟩
theorem witness_OperationsKeepTheTimeInvariants :
    let s := fresh.setNow 30000
    BlockInv s ∧ TimeInv s ∧ TimelyRecord (recordAt 100000) s
      ∧ exec (.restore (recordAt 100000)) s = .next (done (.restore (recordAt 100000)) s) :=
  ⟨by decide, by decide, by decide, rfl⟩
theorem witness_NoStepRaisesTheFatalAssertion : BlockInv (stateA 0) := by decide
theorem witness_TimesFitSixtyFourBits : TimeInv (stateA 0) ∧ TimeRoom (stateA 0) := by decide

end Sys2Proof.Tests
end

section
/-! The first request offered: what fetching it gives, and when a step turns to it rather than to an owed
expiration (41_expiration_and_time.md R126). -/

namespace Sys2Proof.Machine

variable {s : State} {ws : List Word} {rest : List (List Word)} {i : Instr}

/-- The first request's words decode: fetching it runs the operation they decode to, with its words off the list. -/
theorem fetchOffered_of_decode (hin : s.inputs = ws :: rest) (hd : decode ws = .ok i) :
    fetchOffered s = .run i (s.setInputs rest) := by
  simp only [fetchOffered, hin, hd]

/-- The first request's words decode: it is urgent exactly when R126 enables its operation while a channel is due. -/
theorem offersUrgent_of_decode (hin : s.inputs = ws :: rest) (hd : decode ws = .ok i) :
    offersUrgent s = enabledWhileDue s i := by
  simp only [offersUrgent, hin, hd]

/-- No expiration comes first while none is owed. -/
theorem fetch_of_noneDue (h : NoneDue s) : fetch s = fetchOffered s := by
  obtain ⟨-, hfirst⟩ | ⟨j, -, hj, -⟩ := firstDue_cases s
  · simp only [fetch, hfirst]
  · exact absurd ((due_iff s j).mp hj) (h j)

/-- No expiration comes before an urgent request, owed or not. -/
theorem fetch_of_urgent (h : offersUrgent s = true) : fetch s = fetchOffered s := by
  obtain ⟨-, hfirst⟩ | ⟨j, hfirst, -, -⟩ := firstDue_cases s
  · simp only [fetch, hfirst]
  · simp only [fetch, hfirst, h, if_true]

theorem step_of_fetch_run {t : State} (h : fetch s = .run i t) : step s = exec i t := by
  simp only [step, h]

/-- Settles O6: with nothing owed no expiration comes first, and otherwise the second hypothesis is what R126 asks of an
urgent request, so either way the step fetches the request offered first. -/
theorem stepRunsTheDecodedOperation : Obligations.StepRunsTheDecodedOperation := by
  intro s ws rest i hin hd henabled
  have hfetch : fetch s = fetchOffered s := by
    obtain hnone | hurgent := henabled
    · exact fetch_of_noneDue hnone
    · exact fetch_of_urgent ((offersUrgent_of_decode hin hd).trans ((enabledWhileDue_iff s i).mpr hurgent))
  exact step_of_fetch_run (hfetch.trans (fetchOffered_of_decode hin hd))

end Sys2Proof.Machine
end

section
/-! What an operation that completes does to the timers, the latches and the time base, by kind of operation, and what a
step that completes performs: every invariant below is proved from these two. -/

namespace Sys2Proof.Machine

variable {s t : State} {i : Instr}

/-- `t` has the channels, latches, time and configuration of `s`. -/
structure KeepsTimers (s t : State) : Prop where
  chan : ∀ j, t.chan j = s.chan j
  tisr : t.tisr = s.tisr
  now : t.now = s.now
  cfg : t.cfg = s.cfg

/-- The kinds of operation by what they do to the timers: `Effect s i t` says that `i`, performed in `s`, leaves `t`. -/
inductive Effect (s : State) : Instr → State → Prop
  /-- reads, ignored writes, `WR WTCR` and SNAPSHOT -/
  | keep {i : Instr} {t : State} (h : KeepsTimers s t) : Effect s i t
  | controlWrite (k v) (hrest : Disables k v s → 0 < (s.chan k).deadlineNs - s.now) :
      Effect s (.wr (.tcsr k) v) ((s.emit (writeDiags v)).setChan k (controlDone s.npt s.now s.tisr k v (s.chan k)))
  | reloadWrite (k v) : Effect s (.wr (.ticr k) v) (writeReload k v s)
  | statusWrite (v) : Effect s (.wrTisr v) (writeStatus v s)
  | reset {i : Instr} (h : i = .reset ∨ i = .configure) : Effect s i (resetBlock s)
  | restore (p) (hvalid : validSnapshot s.npt p = true) : Effect s (.restore p) (loadSnapshot p s)
  | advance (d) (hnone : NoneDue s) (hmay : s.mayAdvance d = true) : Effect s (.advance d) (s.setNow (s.now + d))
  | expire (k) : Effect s (.expire k) (expireChannel k s)

theorem exec_effect (h : exec i s = .next t) : Effect s i t := by
  obtain ⟨r, v, rfl, -, rfl⟩ | ⟨k, v, rfl, -, hrest, rfl⟩ | ⟨k, v, rfl, -, rfl⟩ | ⟨k, v, rfl, -, rfl⟩ |
    ⟨v, rfl, -, rfl⟩ | ⟨v, rfl, -, rfl⟩ | ⟨off, rfl, -, rfl⟩ | ⟨off, v, rfl, -, rfl⟩ | ⟨rfl, rfl⟩ | ⟨rfl, rfl⟩ | ⟨rfl, -, rfl⟩ |
    ⟨p, rfl, hvalid, rfl⟩ | ⟨d, rfl, -, hnone, hmay, rfl⟩ | ⟨k, rfl, -, rfl⟩ := exec_next_cases h
  · exact .keep ⟨fun _ => rfl, rfl, rfl, rfl⟩
  · exact .controlWrite k v hrest
  · exact .reloadWrite k v
  · exact .keep ⟨fun _ => rfl, rfl, rfl, rfl⟩
  · exact .statusWrite v
  · exact .keep ⟨fun _ => rfl, rfl, rfl, rfl⟩
  · exact .keep ⟨fun _ => rfl, rfl, rfl, rfl⟩
  · exact .keep ⟨fun _ => rfl, rfl, rfl, rfl⟩
  · exact .reset (.inr rfl)
  · exact .reset (.inl rfl)
  · exact .keep ⟨fun _ => rfl, rfl, rfl, rfl⟩
  · exact .restore p hvalid
  · exact .advance d ((noneDue_iff s).mpr hnone) hmay
  · exact .expire k

/-- A step that completes waits, or performs an operation that is an owed expiration or the first one offered. -/
theorem step_next_cases (h : step s = .next t) :
    t = s ∨ ∃ i ws, exec i (s.setInputs ws) = .next t ∧
      ((∃ k, i = .expire k) ∨ ∃ w, s.inputs = w :: ws ∧ decode w = .ok i) := by
  obtain ⟨-, -, hidle⟩ | ⟨k, -, -, howed⟩ | ⟨w, ws, i, hin, hdec, -, hrun⟩ |
    ⟨w, ws, e, -, -, -, hrefuse⟩ := step_cases s
  · exact .inl (by simpa [hidle] using h.symm)
  · exact .inr ⟨.expire k, s.inputs, howed ▸ h, .inl ⟨k, rfl⟩⟩
  · exact .inr ⟨i, ws, hrun ▸ h, .inr ⟨w, hin, hdec⟩⟩
  · simp [hrefuse] at h

/-- How a control write ends (R141 step 6): count-enable stays, rises (a start) or falls (a pause). -/
theorem controlDone_cases (npt : Nat) (now : Int) (tisr : Word) (k : Fin 5) (v : Word) (c : Channel) :
    (running c.control = running v ∧ controlDone npt now tisr k v c = controlWritten npt now tisr k v c) ∨
    (running c.control = false ∧ running v = true ∧
      controlDone npt now tisr k v c =
        { controlWritten npt now tisr k v c with
          deadlineNs := now + (controlWritten npt now tisr k v c).remainingNs, armed := true }) ∨
    (running c.control = true ∧ running v = false ∧
      controlDone npt now tisr k v c =
        { controlWritten npt now tisr k v c with remainingNs := c.deadlineNs - now, armed := false }) := by
  cases hold : running c.control <;> cases hnew : running v <;> simp [controlDone, hold, hnew]

@[simp] theorem writeReload_tisr (k : Fin 5) (v : Word) (s : State) : (writeReload k v s).tisr = s.tisr := by
  simp [writeReload_eq]
@[simp] theorem writeReload_now (k : Fin 5) (v : Word) (s : State) : (writeReload k v s).now = s.now := by
  simp [writeReload_eq]
@[simp] theorem writeReload_cfg (k : Fin 5) (v : Word) (s : State) : (writeReload k v s).cfg = s.cfg := by
  simp [writeReload_eq]

@[simp] theorem writeStatus_tisr (v : Word) (s : State) : (writeStatus v s).tisr = clearLatches s.tisr v := rfl
@[simp] theorem writeStatus_now (v : Word) (s : State) : (writeStatus v s).now = s.now := rfl
@[simp] theorem writeStatus_cfg (v : Word) (s : State) : (writeStatus v s).cfg = s.cfg := rfl

/-- `WR TISR` drives every line to its level and leaves the rest of each channel (R161, decision D1). -/
theorem writeStatus_chan (v : Word) (s : State) (j : Fin 5) :
    (writeStatus v s).chan j = { s.chan j with irq := irqLevel (s.chan j).control (clearLatches s.tisr v) j } := by
  simp [writeStatus, recomputeAllIrqs_chan]

@[simp] theorem expireChannel_now (k : Fin 5) (s : State) : (expireChannel k s).now = s.now := by
  obtain ⟨-, hnow, -⟩ := expireChannel_fields k s
  exact hnow
@[simp] theorem expireChannel_cfg (k : Fin 5) (s : State) : (expireChannel k s).cfg = s.cfg := by
  obtain ⟨-, -, hcfg, -⟩ := expireChannel_fields k s
  exact hcfg

/-- An expiration sets its channel's latch, unless it is stale (R122, R129). -/
theorem expireChannel_tisr (k : Fin 5) (s : State) :
    (expireChannel k s).tisr = if running (s.chan k).control then setLatch s.tisr k else s.tisr := by
  by_cases hrun : running (s.chan k).control = true
  · by_cases hper : anySet (s.chan k).control maskPERIODIC = true
    · simp [expireChannel_periodic hrun hper, hrun]
    · simp [expireChannel_oneShot hrun (by simpa using hper), hrun]
  · simp [expireChannel_stale (by simpa using hrun), hrun]

end Sys2Proof.Machine
end

section
/-! The invariants of 10_state.md section 6: what each kind of operation leaves of one channel, then of the block. -/

namespace Sys2Proof.Machine

variable {s t : State} {k j : Fin 5} {c : Channel} {tisr : Word}

/-- Bits that are clear stay clear when a word is masked further. -/
theorem and_and_eq_zero {a m : Word} (b : Word) (h : a &&& m = 0) : a &&& b &&& m = 0 := by
  rw [BitVec.and_assoc, BitVec.and_comm b m, ← BitVec.and_assoc, h]
  exact BitVec.zero_and

/-- Bits that are clear in two words are clear in their union. -/
theorem or_and_eq_zero {a b m : Word} (ha : a &&& m = 0) (hb : b &&& m = 0) : (a ||| b) &&& m = 0 := by
  rw [BitVec.and_comm, BitVec.and_or_distrib_left, BitVec.and_comm m a, BitVec.and_comm m b, ha, hb]
  exact BitVec.zero_or

/-- Every latch is one of bits 0 to 4 (R26). -/
theorem latchBit_and_high (i : Fin 5) : latchBit i &&& 0xFFFFFFE0 = 0 := by
  match i with | 0 | 1 | 2 | 3 | 4 => decide

/-- A control write leaves no reserved, CRST or CACT bit where CACT was clear (R33, R38). -/
theorem storedControl_and_readZero {old : Word} (v : Word) (h : old &&& (maskRSVD ||| maskCRST ||| maskCACT) = 0) :
    storedControl old v &&& (maskRSVD ||| maskCRST ||| maskCACT) = 0 := by
  have hkept : (0xF80000FF : Word) &&& (maskRSVD ||| maskCRST ||| maskCACT) = 0 := by decide
  have hnew : v &&& 0xF80000FF &&& (maskRSVD ||| maskCRST ||| maskCACT) = 0 := by
    rw [BitVec.and_comm v]
    exact and_and_eq_zero v hkept
  exact or_and_eq_zero (and_and_eq_zero maskCACT h) hnew

theorem freshDuration_nonneg (npt : Nat) (reload control : Word) : 0 ≤ freshDuration npt reload control :=
  countToNs_nonneg _ _ _

/-- Another channel's latch does not enter a channel's invariant. -/
theorem channelInv_setLatch_of_ne (hne : j ≠ k) : ChannelInv (setLatch tisr k) j c ↔ ChannelInv tisr j c := by
  simp [ChannelInv, irqLevel, latched_setLatch, hne]

theorem channelInv_reset (i : Fin 5) : ChannelInv 0 i Channel.reset :=
  ⟨rfl, rfl, by decide, le_rfl⟩

/-- The line after a control write is at the level of the written word: it was at the old level, and is recomputed when
interrupt-enable toggles (R141 step 4). -/
theorem controlWritten_irq (npt : Nat) (now : Int) (v : Word) (h : c.irq = irqLevel c.control tisr k) :
    (controlWritten npt now tisr k v c).irq = irqLevel (storedControl c.control v) tisr k := by
  rw [irqLevel_storedControl]
  by_cases hIE : anySet c.control maskIE = anySet v maskIE <;>
    simp [controlWritten, anySet_xor_IE, h, irqLevel, hIE]

theorem controlWritten_remainingNs_nonneg (npt : Nat) (now : Int) (v : Word) (h : 0 ≤ c.remainingNs) :
    0 ≤ (controlWritten npt now tisr k v c).remainingNs := by
  simp only [controlWritten]
  split
  · exact freshDuration_nonneg _ _ _
  · exact h

/-- A control write that completes keeps its channel's invariant; `hrest` is what a pause asks (R107). -/
theorem channelInv_controlDone {npt : Nat} {now : Int} {v : Word} (h : ChannelInv tisr k c)
    (hrest : running c.control = true ∧ running v = false → 0 < c.deadlineNs - now) :
    ChannelInv tisr k (controlDone npt now tisr k v c) := by
  obtain ⟨harmed, hirq, hzero, hrem⟩ := h
  have hirq' := controlWritten_irq npt now v hirq
  have hzero' := storedControl_and_readZero v hzero
  have hrem' := controlWritten_remainingNs_nonneg (tisr := tisr) (k := k) npt now v hrem
  obtain ⟨hsame, hdone⟩ | ⟨-, hon, hdone⟩ | ⟨hrun, hoff, hdone⟩ := controlDone_cases npt now tisr k v c <;> rw [hdone]
  · exact ⟨by simp [controlWritten, harmed, hsame], hirq', hzero', hrem'⟩
  · exact ⟨by simp [controlWritten, hon], hirq', hzero', hrem'⟩
  · exact ⟨by simp [controlWritten, hoff], hirq', hzero', (hrest ⟨hrun, hoff⟩).le⟩

theorem blockInv_setChan (h : BlockInv s) (hc : ChannelInv s.tisr k c) : BlockInv (s.setChan k c) := by
  obtain ⟨hch, hhigh⟩ := h
  refine ⟨fun j => ?_, hhigh⟩
  by_cases hj : j = k
  · subst hj; simpa using hc
  · simpa [chan_setChan_of_ne s k j c hj] using hch j

theorem blockInv_of_keepsTimers (h : KeepsTimers s t) (hs : BlockInv s) : BlockInv t := by
  obtain ⟨hch, hhigh⟩ := hs
  exact ⟨fun j => by rw [h.chan, h.tisr]; exact hch j, by rw [h.tisr]; exact hhigh⟩

theorem blockInv_writeReload (k : Fin 5) (v : Word) (h : BlockInv s) : BlockInv (writeReload k v s) := by
  rw [writeReload_eq]
  obtain ⟨harmed, hirq, hzero, -⟩ := h.1 k
  exact blockInv_setChan h ⟨by simp [harmed], hirq, hzero, freshDuration_nonneg _ _ _⟩

theorem blockInv_writeStatus (v : Word) (h : BlockInv s) : BlockInv (writeStatus v s) := by
  obtain ⟨hch, hhigh⟩ := h
  refine ⟨fun j => ?_, and_and_eq_zero _ hhigh⟩
  obtain ⟨harmed, -, hzero, hrem⟩ := hch j
  rw [writeStatus_chan]
  exact ⟨harmed, rfl, hzero, hrem⟩

theorem blockInv_resetBlock (s : State) : BlockInv (resetBlock s) :=
  ⟨fun j => by rw [resetBlock_chan]; exact channelInv_reset j, by rw [resetBlock_tisr]; exact BitVec.zero_and⟩

/-- A valid record holds what the invariants ask, and RESTORE recomputes the lines (R184, decision D14). -/
theorem blockInv_loadSnapshot {p : Snapshot} (hvalid : validSnapshot s.npt p = true) : BlockInv (loadSnapshot p s) := by
  obtain ⟨hch, hhigh⟩ := (validSnapshot_iff _ _).mp hvalid
  refine ⟨fun j => ?_, hhigh⟩
  obtain ⟨hzero, harmed, hrem, -⟩ := (validChannel_iff _ _).mp (hch j)
  rw [loadSnapshot_chan]
  exact ⟨harmed, rfl, hzero, hrem⟩

/-- A latch set and its own channel replaced: no other channel's invariant reads that latch. -/
theorem blockInv_latch_setChan (h : BlockInv s) (hc : ChannelInv (setLatch s.tisr k) k c) :
    BlockInv ((s.setTisr (setLatch s.tisr k)).setChan k c) := by
  obtain ⟨hch, hhigh⟩ := h
  refine ⟨fun j => ?_, or_and_eq_zero hhigh (latchBit_and_high k)⟩
  by_cases hj : j = k
  · subst hj; simpa using hc
  · rw [chan_setChan_of_ne _ k j c hj]
    exact (channelInv_setLatch_of_ne hj).mpr (hch j)

theorem irqLevel_setLatch_self (control tisr : Word) (k : Fin 5) :
    irqLevel control (setLatch tisr k) k = anySet control maskIE := by
  simp [irqLevel, latched_setLatch]

theorem blockInv_expireChannel (k : Fin 5) (h : BlockInv s) : BlockInv (expireChannel k s) := by
  obtain ⟨-, hirq, hzero, hrem⟩ := h.1 k
  by_cases hrun : running (s.chan k).control = true
  · by_cases hper : anySet (s.chan k).control maskPERIODIC = true
    · rw [expireChannel_periodic hrun hper]
      exact blockInv_latch_setChan h
        ⟨hrun.symm, (irqLevel_setLatch_self _ _ _).symm, hzero, freshDuration_nonneg _ _ _⟩
    · rw [expireChannel_oneShot hrun (by simpa using hper)]
      have hstopped : running ((s.chan k).control &&& ~~~(maskCEN ||| maskCACT)) = false := by
        rw [running_and, show running (~~~(maskCEN ||| maskCACT)) = false by decide, Bool.and_false]
      have hline : anySet (s.chan k).control maskIE =
          irqLevel ((s.chan k).control &&& ~~~(maskCEN ||| maskCACT)) (setLatch s.tisr k) k := by
        rw [irqLevel_setLatch_self, anySet_clear_CEN_CACT_IE]
      exact blockInv_latch_setChan h ⟨hstopped.symm, hline, and_and_eq_zero _ hzero, le_rfl⟩
  · rw [Bool.not_eq_true] at hrun
    rw [expireChannel_stale hrun]
    exact blockInv_setChan h ⟨hrun.symm, hirq, hzero, hrem⟩

/-- Every operation that completes keeps the invariants of 10_state.md section 6. -/
theorem exec_keeps_blockInv {i : Instr} (h : BlockInv s) (hexec : exec i s = .next t) : BlockInv t := by
  cases exec_effect hexec with
  | keep hkeep => exact blockInv_of_keepsTimers hkeep h
  | controlWrite k v hrest => exact blockInv_setChan h (channelInv_controlDone (h.1 k) hrest)
  | reloadWrite k v => exact blockInv_writeReload k v h
  | statusWrite v => exact blockInv_writeStatus v h
  | reset => exact blockInv_resetBlock s
  | restore p hvalid => exact blockInv_loadSnapshot hvalid
  | advance d => exact h
  | expire k => exact blockInv_expireChannel k h

/-- Settles O55: a step waits or performs one operation, with other requests offered, which no invariant reads. -/
theorem stepKeepsTheBlockInvariants : Obligations.StepKeepsTheBlockInvariants := by
  intro s t hinv hstep
  obtain rfl | ⟨i, ws, hexec, -⟩ := step_next_cases hstep
  · exact hinv
  · exact exec_keeps_blockInv (s := s.setInputs ws) hinv hexec

end Sys2Proof.Machine
end

section
/-! The bounds on durations and deadlines (R29, R105): what each kind of operation leaves of one channel, then of the
block. -/

namespace Sys2Proof.Machine

variable {s t : State} {k : Fin 5} {c : Channel} {npt : Nat} {now : Int}

/-- What `TimeInv` says of one channel, at a time and for a tick. -/
def ChannelTimes (npt : Nat) (now : Int) (c : Channel) : Prop :=
  0 ≤ c.remainingNs ∧ c.remainingNs ≤ maxDuration npt
    ∧ 0 ≤ c.deadlineNs ∧ c.deadlineNs ≤ now + maxDuration npt ∧ (c.armed = true → now ≤ c.deadlineNs)

theorem timeInv_iff : TimeInv s ↔ 0 ≤ s.now ∧ ∀ j, ChannelTimes s.npt s.now (s.chan j) := Iff.rfl

theorem maxDuration_nonneg (npt : Nat) : 0 ≤ maxDuration npt := Int.natCast_nonneg _

theorem freshDuration_le (npt : Nat) (reload control : Word) : freshDuration npt reload control ≤ maxDuration npt :=
  countToNs_le _ _ (prescaleDivisor_bounds control).2

theorem channelTimes_reset (npt : Nat) (hnow : 0 ≤ now) : ChannelTimes npt now Channel.reset := by
  have hmax := maxDuration_nonneg npt
  refine ⟨le_rfl, hmax, le_rfl, Int.add_nonneg hnow hmax, fun harmed => ?_⟩
  simp [Channel.reset] at harmed

/-- A channel started now, with a duration in range (R106). -/
theorem channelTimes_start (hnow : 0 ≤ now) (hrem : 0 ≤ c.remainingNs) (hmax : c.remainingNs ≤ maxDuration npt) :
    ChannelTimes npt now { c with deadlineNs := now + c.remainingNs, armed := true } :=
  ⟨hrem, hmax, Int.add_nonneg hnow hrem, Int.add_le_add_left hmax now, fun _ => Int.le_add_of_nonneg_right hrem⟩

/-- A channel stopped, or found stale, with a duration in range: its deadline stays behind (R30, R107, R122, R129). -/
theorem channelTimes_stop (h : ChannelTimes npt now c) {rest : Int} (hrest : 0 ≤ rest) (hmax : rest ≤ maxDuration npt)
    (control reload : Word) (irq : Bool) :
    ChannelTimes npt now
      { control := control, reload := reload, remainingNs := rest, deadlineNs := c.deadlineNs, armed := false,
        irq := irq } := by
  obtain ⟨-, -, hdead, hlate, -⟩ := h
  exact ⟨hrest, hmax, hdead, hlate, fun harmed => absurd harmed Bool.false_ne_true⟩

/-- A restart takes a fresh duration, and starts the channel or leaves its deadline (R108). -/
theorem channelTimes_restart (hnow : 0 ≤ now) (h : ChannelTimes npt now c) (starts : Bool) (control reload w : Word)
    (irq : Bool) :
    ChannelTimes npt now
      { control := control, reload := reload, remainingNs := freshDuration npt reload w,
        deadlineNs := if starts then now + freshDuration npt reload w else c.deadlineNs,
        armed := starts || c.armed, irq := irq } := by
  have hfresh := freshDuration_nonneg npt reload w
  have hmax := freshDuration_le npt reload w
  cases starts with
  | true => exact channelTimes_start (c := ⟨control, reload, _, c.deadlineNs, c.armed, irq⟩) hnow hfresh hmax
  | false =>
    obtain ⟨-, -, hdead, hlate, hpending⟩ := h
    exact ⟨hfresh, hmax, hdead, hlate, hpending⟩

/-- Time that passes no pending deadline keeps a channel's times in range (R125). -/
theorem channelTimes_advance (h : ChannelTimes npt now c) {d : Nat}
    (hmay : c.armed = true → now + d ≤ c.deadlineNs) : ChannelTimes npt (now + d) c := by
  obtain ⟨hrem, hmax, hdead, hlate, -⟩ := h
  exact ⟨hrem, hmax, hdead, by omega, hmay⟩

theorem channelTimes_controlWritten (hnow : 0 ≤ now) (h : ChannelTimes npt now c) (tisr : Word) (k : Fin 5) (v : Word) :
    ChannelTimes npt now (controlWritten npt now tisr k v c) := by
  by_cases hcrst : anySet v maskCRST = true
  · simpa [controlWritten, hcrst] using
      channelTimes_restart hnow h (running c.control && running v) (storedControl c.control v) c.reload v
        (if anySet (c.control ^^^ v) maskIE then irqLevel v tisr k else c.irq)
  · simpa [controlWritten, hcrst, ChannelTimes] using h

/-- A control write that completes keeps its channel's times in range; `hrest` is what a pause asks (R107). -/
theorem channelTimes_controlDone (hnow : 0 ≤ now) (h : ChannelTimes npt now c) {tisr v : Word}
    (hrest : running c.control = true ∧ running v = false → 0 < c.deadlineNs - now) :
    ChannelTimes npt now (controlDone npt now tisr k v c) := by
  have hwritten := channelTimes_controlWritten hnow h tisr k v
  obtain ⟨-, hdone⟩ | ⟨-, -, hdone⟩ | ⟨hrun, hoff, hdone⟩ := controlDone_cases npt now tisr k v c <;> rw [hdone]
  · exact hwritten
  · obtain ⟨hrem, hmax, -⟩ := hwritten
    exact channelTimes_start hnow hrem hmax
  · obtain ⟨-, -, -, hlate, -⟩ := h
    exact channelTimes_stop hwritten (hrest ⟨hrun, hoff⟩).le (by omega) _ _ _

theorem timeInv_setChan (h : TimeInv s) (hc : ChannelTimes s.npt s.now c) : TimeInv (s.setChan k c) := by
  obtain ⟨hnow, hch⟩ := timeInv_iff.mp h
  refine timeInv_iff.mpr ⟨hnow, fun j => ?_⟩
  by_cases hj : j = k
  · subst hj; simpa using hc
  · simpa [chan_setChan_of_ne s k j c hj] using hch j

theorem timeInv_of_keepsTimers (h : KeepsTimers s t) (hs : TimeInv s) : TimeInv t := by
  have hnpt : t.npt = s.npt := congrArg Config.nsPerTick h.cfg
  obtain ⟨hnow, hch⟩ := timeInv_iff.mp hs
  exact timeInv_iff.mpr ⟨h.now ▸ hnow, fun j => by rw [h.chan, h.now, hnpt]; exact hch j⟩

theorem timeInv_writeReload (k : Fin 5) (v : Word) (h : TimeInv s) : TimeInv (writeReload k v s) := by
  obtain ⟨hnow, hch⟩ := timeInv_iff.mp h
  rw [writeReload_eq]
  exact timeInv_setChan h (channelTimes_restart hnow (hch k) _ _ _ _ _)

theorem timeInv_writeStatus (v : Word) (h : TimeInv s) : TimeInv (writeStatus v s) := by
  obtain ⟨hnow, hch⟩ := timeInv_iff.mp h
  exact timeInv_iff.mpr ⟨hnow, fun j => by rw [writeStatus_chan]; exact hch j⟩

theorem timeInv_resetBlock (h : 0 ≤ s.now) : TimeInv (resetBlock s) :=
  timeInv_iff.mpr ⟨h, fun j => by rw [resetBlock_chan]; exact channelTimes_reset _ h⟩

/-- A valid record's durations are in range; its deadlines are so by hypothesis (R184, log entry 14). -/
theorem timeInv_loadSnapshot {p : Snapshot} (hnow : 0 ≤ s.now) (hvalid : validSnapshot s.npt p = true)
    (htimely : TimelyRecord p s) : TimeInv (loadSnapshot p s) := by
  obtain ⟨hch, -⟩ := (validSnapshot_iff _ _).mp hvalid
  refine timeInv_iff.mpr ⟨hnow, fun j => ?_⟩
  obtain ⟨-, -, hrem, hmax⟩ := (validChannel_iff _ _).mp (hch j)
  rw [loadSnapshot_chan]
  exact ⟨hrem, hmax, htimely j⟩

theorem timeInv_setNow {d : Nat} (h : TimeInv s) (hmay : s.mayAdvance d = true) : TimeInv (s.setNow (s.now + d)) := by
  obtain ⟨hnow, hch⟩ := timeInv_iff.mp h
  exact timeInv_iff.mpr
    ⟨Int.add_nonneg hnow (Int.natCast_nonneg d), fun j => channelTimes_advance (hch j) ((mayAdvance_iff s d).mp hmay j)⟩

theorem timeInv_expireChannel (k : Fin 5) (h : TimeInv s) : TimeInv (expireChannel k s) := by
  obtain ⟨hnow, hch⟩ := timeInv_iff.mp h
  have hlatched : TimeInv (s.setTisr (setLatch s.tisr k)) := h
  by_cases hrun : running (s.chan k).control = true
  · by_cases hper : anySet (s.chan k).control maskPERIODIC = true
    · rw [expireChannel_periodic hrun hper]
      exact timeInv_setChan hlatched (channelTimes_restart hnow (hch k) true _ _ _ _)
    · rw [expireChannel_oneShot hrun (by simpa using hper)]
      exact timeInv_setChan hlatched (channelTimes_stop (hch k) le_rfl (maxDuration_nonneg _) _ _ _)
  · rw [expireChannel_stale (by simpa using hrun)]
    obtain ⟨hrem, hmax, -⟩ := hch k
    exact timeInv_setChan h (channelTimes_stop (hch k) hrem hmax _ _ _)

/-- Settles O56, one kind of operation at a time; only RESTORE reads the hypothesis on the record. -/
theorem operationsKeepTheTimeInvariants : Obligations.OperationsKeepTheTimeInvariants := by
  intro i s t _ htime htimely hexec
  obtain ⟨hnow, hch⟩ := timeInv_iff.mp htime
  cases exec_effect hexec with
  | keep hkeep => exact timeInv_of_keepsTimers hkeep htime
  | controlWrite k v hrest => exact timeInv_setChan htime (channelTimes_controlDone hnow (hch k) hrest)
  | reloadWrite k v => exact timeInv_writeReload k v htime
  | statusWrite v => exact timeInv_writeStatus v htime
  | reset => exact timeInv_resetBlock hnow
  | restore p hvalid => exact timeInv_loadSnapshot hnow hvalid (htimely p rfl)
  | advance d _ hmay => exact timeInv_setNow htime hmay
  | expire k => exact timeInv_expireChannel k htime

end Sys2Proof.Machine
end

section
/-! What moves a latch and what moves time (R26, R34), and the state after reset (R40). -/

namespace Sys2Proof.Machine

variable {s t : State} {i : Instr}

/-- Everything an operation that completes can do to the interrupt-status word (R26). -/
theorem exec_tisr_cases (h : exec i s = .next t) :
    t.tisr = s.tisr ∨ (∃ c : Fin 5, i = .expire c ∧ t.tisr = setLatch s.tisr c) ∨
      (∃ v, i = .wrTisr v ∧ t.tisr = clearLatches s.tisr v) ∨
      ((i = .reset ∨ i = .configure) ∧ t.tisr = 0) ∨ ∃ p, i = .restore p := by
  cases exec_effect h with
  | keep hkeep => exact .inl hkeep.tisr
  | controlWrite k v => exact .inl rfl
  | reloadWrite k v => exact .inl (writeReload_tisr k v s)
  | statusWrite v => exact .inr (.inr (.inl ⟨v, rfl, writeStatus_tisr v s⟩))
  | reset hi => exact .inr (.inr (.inr (.inl ⟨hi, resetBlock_tisr s⟩)))
  | restore p => exact .inr (.inr (.inr (.inr ⟨p, rfl⟩)))
  | advance d => exact .inl rfl
  | expire k =>
    by_cases hrun : running (s.chan k).control = true
    · exact .inr (.inl ⟨k, rfl, by rw [expireChannel_tisr, if_pos hrun]⟩)
    · exact .inl (by rw [expireChannel_tisr, if_neg hrun])

theorem getLsbD_setLatch (tisr : Word) (c : Fin 5) (k : Nat) :
    (setLatch tisr c).getLsbD k = (tisr.getLsbD k || decide (c.val = k)) := by
  have h32 : c.val < 32 := by omega
  simp [setLatch, latchBit_eq_twoPow, BitVec.getLsbD_twoPow, h32]

/-- Clearing latches raises none. -/
theorem getLsbD_clearLatches_of_false {tisr : Word} (v : Word) {k : Nat} (h : tisr.getLsbD k = false) :
    (clearLatches tisr v).getLsbD k = false := by
  rw [clearLatches, BitVec.getLsbD_and, h, Bool.false_and]

/-- Settles O44: an expiration only sets its own bit, and `WR TISR` and the resets only clear bits. -/
theorem latchRisesOnlyByExpiration : Obligations.LatchRisesOnlyByExpiration := by
  intro i s t k hexec
  obtain hsame | ⟨c, hi, hset⟩ | ⟨v, hi, hclear⟩ | ⟨hi, hzero⟩ | ⟨p, hi⟩ := exec_tisr_cases hexec
  · rw [hsame]
    exact ⟨fun hlow hhigh => by simp [hlow] at hhigh, fun hhigh hlow => by simp [hlow] at hhigh⟩
  · rw [hset, getLsbD_setLatch]
    exact ⟨fun hlow hhigh => .inl ⟨c, by simpa [hlow] using hhigh, hi⟩, fun hhigh hlow => by simp [hhigh] at hlow⟩
  · rw [hclear]
    exact ⟨fun hlow hhigh => by simp [getLsbD_clearLatches_of_false v hlow] at hhigh, fun _ _ => .inl ⟨v, hi⟩⟩
  · rw [hzero]
    exact ⟨fun _ hhigh => by simp at hhigh, fun _ _ => hi.elim (.inr ∘ .inl) (.inr ∘ .inr ∘ .inl)⟩
  · exact ⟨fun _ _ => .inr ⟨p, hi⟩, fun _ _ => .inr (.inr (.inr ⟨p, hi⟩))⟩

/-- Everything an operation that completes can do to the configuration and to time (R34, R35, R125). -/
theorem exec_time_cases (h : exec i s = .next t) :
    t.cfg = s.cfg ∧ (t.now = s.now ∨ ∃ d : Nat, i = .advance d ∧ NoneDue s ∧ t.now = s.now + d) := by
  cases exec_effect h with
  | keep hkeep => exact ⟨hkeep.cfg, .inl hkeep.now⟩
  | controlWrite k v => exact ⟨rfl, .inl rfl⟩
  | reloadWrite k v => exact ⟨writeReload_cfg k v s, .inl (writeReload_now k v s)⟩
  | statusWrite v => exact ⟨writeStatus_cfg v s, .inl (writeStatus_now v s)⟩
  | reset => exact ⟨resetBlock_cfg s, .inl (resetBlock_now s)⟩
  | restore p => exact ⟨loadSnapshot_cfg p s, .inl (loadSnapshot_now p s)⟩
  | advance d hnone => exact ⟨rfl, .inr ⟨d, rfl, hnone, rfl⟩⟩
  | expire k => exact ⟨expireChannel_cfg k s, .inl (expireChannel_now k s)⟩

theorem expire_ne_advance (k : Fin 5) (d : Nat) : Instr.expire k ≠ .advance d := by
  match k with
  | 0 | 1 | 2 | 3 | 4 => simp [Instr.expire]

/-- A step moves time only by performing the ADVANCE offered first: an owed expiration is none. -/
theorem step_time_cases (h : step s = .next t) :
    t.cfg = s.cfg ∧
      (t.now = s.now ∨ ∃ ws rest d, s.inputs = ws :: rest ∧ decode ws = .ok (.advance d) ∧ NoneDue s
        ∧ t.now = s.now + d) := by
  obtain rfl | ⟨i, rest, hexec, hfrom⟩ := step_next_cases h
  · exact ⟨rfl, .inl rfl⟩
  · obtain ⟨hcfg, hsame | ⟨d, rfl, hnone, hnow⟩⟩ := exec_time_cases hexec
    · exact ⟨hcfg, .inl hsame⟩
    · obtain ⟨k, hk⟩ | ⟨ws, hin, hdec⟩ := hfrom
      · exact absurd hk.symm (expire_ne_advance k d)
      · exact ⟨hcfg, .inr ⟨ws, rest, d, hin, hdec, hnone, hnow⟩⟩

/-- Settles O45: an ADVANCE adds a natural number to `now`, and nothing else writes it. -/
theorem onlyAdvanceMovesTime : Obligations.OnlyAdvanceMovesTime := by
  refine ⟨fun i s t hexec => ?_, fun s t hstep => ?_⟩
  · obtain ⟨hcfg, hsame | ⟨d, hi, -, hnow⟩⟩ := exec_time_cases hexec
    · exact ⟨hcfg, hsame.ge, fun _ => hsame⟩
    · exact ⟨hcfg, by omega, fun hother => absurd hi (hother d)⟩
  · obtain ⟨hcfg, hsame | ⟨ws, rest, d, hin, hdec, hnone, hnow⟩⟩ := step_time_cases hstep
    · exact ⟨hcfg, hsame.ge, .inl hsame⟩
    · exact ⟨hcfg, by omega, .inr ⟨ws, rest, d, hin, hdec, hnone, hnow⟩⟩

/-- RESET changes nothing in the state after reset: what holds after RESET holds there. -/
theorem resetBlock_reset : resetBlock State.reset = State.reset := rfl

/-- Settles O57: the state after reset is what RESET leaves, so its invariants are RESET's. -/
theorem resetStateHasTheInvariants : Obligations.ResetStateHasTheInvariants := by
  refine ⟨fun j => ?_, rfl, rfl, fun j hdue => ?_, ?_, ?_⟩
  · rw [reset_chan]
    exact ⟨rfl, rfl, rfl, rfl⟩
  · rw [reset_chan] at hdue
    exact absurd hdue.1 Bool.false_ne_true
  · rw [← resetBlock_reset]
    exact blockInv_resetBlock State.reset
  · rw [← resetBlock_reset]
    exact timeInv_resetBlock le_rfl

end Sys2Proof.Machine
end

section
/-! The step when the request offered first does not run: an owed expiration comes before it, or its words are no
operation (41_expiration_and_time.md R126, R132; 20_memory.md R53). -/

namespace Sys2Proof.Machine

variable {s : State} {k : Fin 5}

/-- The lowest due channel is the one whose expiration is owed first. -/
theorem firstDue_eq_some (hdue : s.due k = true) (hlow : ∀ j, j < k → s.due j = false) : s.firstDue = some k := by
  obtain ⟨hnone, -⟩ | ⟨j, hfirst, hj, hbelow⟩ := firstDue_cases s
  · simp [(anyDue_eq_false s).mp hnone k] at hdue
  · have hkj : k ≤ j := not_lt.mp fun hlt => by simp [hlow j hlt] at hj
    have hjk : j ≤ k := not_lt.mp fun hlt => by simp [hbelow k hlt] at hdue
    rw [hfirst, le_antisymm hjk hkj]

/-- Nothing urgent is offered when R126 does not enable the operation that the first request, if any, decodes to. -/
theorem offersUrgent_eq_false
    (h : ∀ ws rest i, s.inputs = ws :: rest → decode ws = .ok i → enabledWhileDue s i = false) :
    offersUrgent s = false := by
  cases hin : s.inputs with
  | nil => simp only [offersUrgent, hin]
  | cons ws rest =>
    cases hd : decode ws with
    | ok i => exact (offersUrgent_of_decode hin hd).trans (h ws rest i hin hd)
    | error e => simp only [offersUrgent, hin, hd]

/-- What waits for due channels, and an EXPIRE of a channel that is not due, R126 does not enable while one is due. -/
theorem enabledWhileDue_eq_false {i : Instr} (h : waitsForDue i = true ∨ ∃ j, i = .expire j ∧ s.due j = false) :
    enabledWhileDue s i = false := by
  rw [← Bool.not_eq_true, enabledWhileDue_iff]
  rintro ⟨hwaits, hdue⟩
  obtain h | ⟨j, hi, hj⟩ := h
  · exact Bool.false_ne_true (hwaits.symm.trans h)
  · exact Bool.false_ne_true (hj.symm.trans (hdue j hi))

/-- An owed expiration comes before every request that is not urgent. -/
theorem fetch_of_owed (hfirst : s.firstDue = some k) (hurgent : offersUrgent s = false) :
    fetch s = .run (.expire k) s := by
  simp only [fetch, hfirst, hurgent, Bool.false_eq_true, if_false]

/-- An EXPIRE completes when its channel is due (R126). -/
theorem exec_expire_of_due (hdue : s.due k = true) : exec (.expire k) s = .next (expireChannel k s) := by
  rw [exec_expire, expireOp, if_pos hdue]

/-- Settles O7: nothing urgent is offered, so the step is the owed expiration, which is enabled and moves neither the
requests nor time. -/
theorem owedExpirationComesFirst : Obligations.OwedExpirationComesFirst := by
  intro s k hdue hlow hoffered
  have hurgent : offersUrgent s = false :=
    offersUrgent_eq_false fun ws rest i hin hd => enabledWhileDue_eq_false (hoffered ws rest i hin hd)
  have hstep : step s = exec (.expire k) s :=
    step_of_fetch_run (fetch_of_owed (firstDue_eq_some hdue hlow) hurgent)
  obtain ⟨-, hnow, -, hinputs, -⟩ := expireChannel_fields k s
  exact ⟨hstep, expireChannel k s, hstep.trans (exec_expire_of_due hdue), hinputs, hnow⟩

/-- With nothing owed, first words that are no operation are refused by the name of what is wrong with them. -/
theorem step_of_decode_error {ws : List Word} {rest : List (List Word)} {e : DecodeError} (hnone : NoneDue s)
    (hin : s.inputs = ws :: rest) (hd : decode ws = .error e) : step s = .refused (decodeRefusal e) := by
  simp only [step, fetch_of_noneDue hnone, fetchOffered, hin, hd]

end Sys2Proof.Machine
end

section
/-! The words of a bus access: what they decode to at an aligned offset, and that they are no operation at any other
(20_memory.md R53; 30_encoding.md R71, R72). -/

namespace Sys2Proof

variable {off : BitVec 30}

theorem decode_encodeRead (h : off.toNat % 4 = 0) : decode (encodeRead off) = .ok (decodeRead off) := by
  simp [encodeRead, decode, decodeSelected, withoutOperands, h]

theorem decode_encodeWrite (v : Word) (h : off.toNat % 4 = 0) :
    decode (encodeWrite off v) = .ok (decodeWrite off v) := by
  simp [encodeWrite, decode, decodeSelected, withDataWord, h]

theorem decode_of_misaligned {sel : Word} (ops : List Word) (hcls : selClass sel = 0 ∨ selClass sel = 1)
    (h : (selField sel).toNat % 4 ≠ 0) : decode (sel :: ops) = .error .misaligned := by
  obtain hc | hc := hcls <;> simp [decode, decodeSelected, hc, h]

theorem decodeRead_of_some {r : Reg} (h : decodeOffset off.toNat = some r) : decodeRead off = .rd r := by
  simp only [decodeRead, h]

theorem decodeRead_of_none (h : decodeOffset off.toNat = none) : decodeRead off = .rdUnknown off := by
  simp only [decodeRead, h]

theorem decodeWrite_of_some {r : Reg} (v : Word) (h : decodeOffset off.toNat = some r) :
    decodeWrite off v = .wr r v := by
  simp only [decodeWrite, h]

theorem decodeWrite_of_none (v : Word) (h : decodeOffset off.toNat = none) :
    decodeWrite off v = .wrUnknown off v := by
  simp only [decodeWrite, h]

end Sys2Proof
end

section
/-! The bus port: an access to a register is `RegRead` or `RegWrite` at its offset, one to an unknown offset is checked
against `REGION_SIZE`, and the boundary delivers only what the core takes (20_memory.md R50 to R57). -/

namespace Sys2Proof.Machine

variable {s : State} {off : BitVec 30}

theorem whenNoneDue_of_noneDue (h : NoneDue s) (k : Result) : whenNoneDue s k = k :=
  whenNoneDue_of_none ((noneDue_iff s).mp h)

/-- The read of a register is `RegRead` at its offset (R50). -/
theorem exec_rd (r : Reg) (s : State) : exec (.rd r) s = busRead (regRead r.offset s) s := by
  rw [regRead, decodeOffset_offset]
  cases r with
  | tcsr k => exact exec_rd_tcsr k s
  | ticr k => exact exec_rd_ticr k s
  | tdr k => exact exec_rd_tdr k s
  | tisr => exact exec_rd_tisr s
  | wtcr => exact exec_rd_wtcr s

/-- The write of a register is `RegWrite` at its offset, once nothing is due (R50, R126). -/
theorem exec_wr (r : Reg) (v : Word) (s : State) : exec (.wr r v) s = whenNoneDue s (regWrite r.offset v s) := by
  rw [regWrite, decodeOffset_offset]
  cases r with
  | tcsr k => exact exec_wr_tcsr k v s
  | ticr k => exact exec_wr_ticr k v s
  | tdr k => exact exec_wr_tdr k v s
  | tisr => exact exec_wr_tisr v s
  | wtcr => exact exec_wr_wtcr v s

theorem exec_rd_of_noneDue (r : Reg) (h : NoneDue s) : exec (.rd r) s = .next (s.answer (regRead r.offset s)) := by
  rw [exec_rd, busRead, whenNoneDue_of_noneDue h]

theorem unknownOffset_of_lt (k : Result) (h : NoneDue s) (hlt : off.toNat < s.cfg.regionSize.val) :
    unknownOffset off s k = k := by
  rw [unknownOffset, whenNoneDue_of_noneDue h, if_pos hlt]

theorem unknownOffset_of_le (k : Result) (h : NoneDue s) (hle : s.cfg.regionSize.val ≤ off.toNat) :
    unknownOffset off s k = .refused .beyondRegion := by
  rw [unknownOffset, whenNoneDue_of_noneDue h, if_neg hle.not_gt]

theorem exec_rdUnknown_of_lt (h : NoneDue s) (hlt : off.toNat < s.cfg.regionSize.val) :
    exec (.rdUnknown off) s = .next ((s.emit [.unknownOffsetRead]).answer 0) := by
  rw [exec_rdUnknown, unknownOffset_of_lt _ h hlt]

theorem exec_wrUnknown_of_lt (v : Word) (h : NoneDue s) (hlt : off.toNat < s.cfg.regionSize.val) :
    exec (.wrUnknown off v) s = .next (s.emit [.unknownOffsetWrite]) := by
  rw [exec_wrUnknown, unknownOffset_of_lt _ h hlt]

/-- A read below `REGION_SIZE` answers `RegRead` of its offset and changes nothing but diagnostics (R50, R55). -/
theorem exec_decodeRead (h : NoneDue s) (hlt : off.toNat < s.cfg.regionSize.val) :
    ∃ ds, exec (decodeRead off) s = .next ((s.emit ds).answer (regRead off.toNat s)) := by
  cases hd : decodeOffset off.toNat with
  | some r =>
    refine ⟨[], ?_⟩
    rw [decodeRead_of_some hd, exec_rd_of_noneDue r h, offset_of_decodeOffset hd, State.emit, List.append_nil]
  | none =>
    refine ⟨[.unknownOffsetRead], ?_⟩
    rw [decodeRead_of_none hd, exec_rdUnknown_of_lt h hlt, regRead, hd]

/-- A write below `REGION_SIZE` is `RegWrite` at its offset (R50). -/
theorem exec_decodeWrite (v : Word) (h : NoneDue s) (hlt : off.toNat < s.cfg.regionSize.val) :
    exec (decodeWrite off v) s = regWrite off.toNat v s := by
  cases hd : decodeOffset off.toNat with
  | some r => rw [decodeWrite_of_some v hd, exec_wr, whenNoneDue_of_noneDue h, offset_of_decodeOffset hd]
  | none => rw [decodeWrite_of_none v hd, exec_wrUnknown_of_lt v h hlt, regWrite, hd]

/-- Settles O14: a register's read answers `RegRead` of its offset, and the unknown one 0 with its diagnostic. -/
theorem readsChangeNothing : Obligations.ReadsChangeNothing :=
  ⟨fun r s hnone => ⟨regRead r.offset s, exec_rd_of_noneDue r hnone⟩,
    fun _ _ hnone hlt => exec_rdUnknown_of_lt hnone hlt⟩

/-- Settles O34: the offset decode that picks the operation is the one that `RegRead` and `RegWrite` make. -/
theorem accessIsThePortsFunction : Obligations.AccessIsThePortsFunction :=
  fun _ _ hnone _ hlt => ⟨exec_decodeRead hnone hlt, fun v => exec_decodeWrite v hnone hlt⟩

/-- A running channel that is not due has time left: the invariants say that its callback is pending (R36, R127). -/
theorem now_lt_deadline_of_running {k : Fin 5} (hinv : BlockInv s) (hnone : NoneDue s)
    (hrun : running (s.chan k).control = true) : s.now < (s.chan k).deadlineNs := by
  obtain ⟨hchan, -⟩ := hinv
  obtain ⟨harmed, -⟩ := hchan k
  exact not_le.mp fun hle => hnone k ⟨harmed.trans hrun, hle⟩

/-- A control write completes: it cannot find a channel past its deadline to stop (R127, R206). -/
theorem writeControl_completes (k : Fin 5) (v : Word) (hinv : BlockInv s) (hnone : NoneDue s) :
    ∃ t, writeControl k v s = .next t := by
  obtain ⟨⟨hrun, -⟩, hle, -⟩ | ⟨-, hnext⟩ := writeControl_cases k v s
  · have hlt := now_lt_deadline_of_running hinv hnone hrun
    omega
  · exact ⟨_, hnext⟩

/-- `RegWrite` completes at every offset (R51): of all writes only a control write could stop. -/
theorem regWrite_completes (off : Nat) (v : Word) (hinv : BlockInv s) (hnone : NoneDue s) :
    ∃ t, regWrite off v s = .next t := by
  cases hd : decodeOffset off with
  | none => exact ⟨_, by rw [regWrite, hd]⟩
  | some r =>
    cases r with
    | tcsr k => simpa only [regWrite, hd] using writeControl_completes k v hinv hnone
    | ticr k | tdr k | tisr | wtcr => exact ⟨_, by rw [regWrite, hd]⟩

/-- Settles O35: below `REGION_SIZE` the access is the port's function at its offset, and that completes. -/
theorem noAccessFails : Obligations.NoAccessFails := by
  intro off v s hinv hnone hlt
  obtain ⟨ds, hread⟩ := exec_decodeRead hnone hlt
  rw [exec_decodeWrite v hnone hlt]
  exact ⟨⟨_, hread⟩, regWrite_completes off.toNat v hinv hnone⟩

/-! ### The boundary -/

theorem reachesCore_iff (cfg : Config) (a : BusAccess) :
    reachesCore cfg a = true ↔ a.bytes = 4 ∧ a.off % 4 = 0 ∧ a.off < cfg.regionSize.val := by
  simp [reachesCore, and_assoc]

/-- A delivered access is offered after the requests already there. -/
theorem present_of_reachesCore {a : BusAccess} (h : reachesCore s.cfg a = true) :
    present a s = (s.setInputs (s.inputs ++ [accessWords a]), none) := by
  rw [present, if_pos h]

/-- A rejected access leaves the whole state, and the platform answers it (decision D6). -/
theorem present_of_not_reachesCore {a : BusAccess} (h : ¬ reachesCore s.cfg a = true) :
    present a s = (s, some (Config.busRejectResponse a.write a.off a.bytes a.serial)) := by
  rw [present, if_neg h]

/-- The selector's offset field holds every offset of the region (log entry 7). -/
theorem toNat_ofNat_of_lt_regionSize {cfg : Config} {n : Nat} (h : n < cfg.regionSize.val) :
    (BitVec.ofNat 30 n).toNat = n := by
  obtain ⟨-, -, hmax⟩ := cfg.regionSize.property
  exact (BitVec.toNat_ofNat n 30).trans (Nat.mod_eq_of_lt (h.trans_le hmax))

/-- The words of an access the core takes decode to the read or write at its offset (R71). -/
theorem decode_accessWords {cfg : Config} {a : BusAccess} (halign : a.off % 4 = 0)
    (hlt : a.off < cfg.regionSize.val) :
    decode (accessWords a) = .ok (if a.write then decodeWrite (BitVec.ofNat 30 a.off) a.data
      else decodeRead (BitVec.ofNat 30 a.off)) := by
  have haligned : (BitVec.ofNat 30 a.off).toNat % 4 = 0 := by rwa [toNat_ofNat_of_lt_regionSize hlt]
  rw [accessWords]
  split
  · exact decode_encodeWrite a.data haligned
  · exact decode_encodeRead haligned

/-- Settles O10: a misaligned access decodes to an error that the step names, an unknown offset beyond the region is
refused by its own operation, and the boundary delivers exactly the accesses that `reachesCore` admits. -/
theorem accessesTheCoreNeverSeesAreRefused : Obligations.AccessesTheCoreNeverSeesAreRefused := by
  refine ⟨fun s sel ops rest hin hnone hcls hoff => ?_, fun s off v hnone hle => ⟨?_, ?_⟩,
    fun a s hrejected => ?_, fun a s hbytes halign hlt => ⟨?_, decode_accessWords halign hlt⟩⟩
  · exact step_of_decode_error hnone hin (decode_of_misaligned ops hcls hoff)
  · rw [exec_rdUnknown, unknownOffset_of_le _ hnone hle]
  · rw [exec_wrUnknown, unknownOffset_of_le _ hnone hle]
  · have hnot : ¬ reachesCore s.cfg a = true := by
      rw [reachesCore_iff]
      omega
    rw [present_of_not_reachesCore hnot]
    exact ⟨rfl, rfl⟩
  · exact present_of_reachesCore ((reachesCore_iff s.cfg a).mpr ⟨hbytes, halign, hlt⟩)

end Sys2Proof.Machine
end

section
/-! The register map read both ways: the table and the arithmetic form of the offset decode name the same register, and
an access at its offset is the access to it (30_encoding.md R70, R72, R79). -/

namespace Sys2Proof.Machine

variable {off : Nat} {r : Reg}

/-- The table names a register at its own offset and nowhere else. -/
theorem decodeOffset_eq_some_iff : decodeOffset off = some r ↔ r.offset = off :=
  ⟨offset_of_decodeOffset, fun h => h ▸ decodeOffset_offset r⟩

/-- An aligned offset below `0x80` is its two fields `off[6:5]` and `off[4:2]` (R72). -/
theorem offset_eq_fields (halign : off % 4 = 0) (hlt : off < 0x80) : off = 32 * (off / 32 % 4) + 4 * (off / 4 % 8) := by
  omega

theorem decodeOffsetArith_offset (r : Reg) : decodeOffsetArith r.offset = some r := by
  cases r with
  | tcsr i | ticr i | tdr i => match i with | 0 | 1 | 2 | 3 | 4 => rfl
  | tisr => rfl
  | wtcr => rfl

/-- The arithmetic form drops the low two bits, so only among the aligned offsets is a register's own the one at which
it names that register. -/
theorem offset_of_decodeOffsetArith (halign : off % 4 = 0) (h : decodeOffsetArith off = some r) : r.offset = off := by
  unfold decodeOffsetArith at h
  split at h
  · cases h
  · next hlt =>
    rw [offset_eq_fields halign (not_le.mp hlt)]
    split at h <;> cases h
    all_goals next hg hw => rw [hg, hw]; rfl

theorem decodeOffsetArith_eq_some_iff (halign : off % 4 = 0) : decodeOffsetArith off = some r ↔ r.offset = off :=
  ⟨offset_of_decodeOffsetArith halign, fun h => h ▸ decodeOffsetArith_offset r⟩

/-- Settles O4: either form names a register exactly at the register's own offset. -/
theorem offsetDecodeIsArithmetic : Obligations.OffsetDecodeIsArithmetic := fun _ halign =>
  Option.ext fun _ => decodeOffset_eq_some_iff.trans (decodeOffsetArith_eq_some_iff halign).symm

theorem decodeOffset_eq_none_of_forall (h : ∀ r : Reg, r.offset ≠ off) : decodeOffset off = none :=
  Option.eq_none_iff_forall_ne_some.mpr fun r hr => h r (decodeOffset_eq_some_iff.mp hr)

/-- Settles O5: the words of an aligned access decode to what the table has at the offset. -/
theorem accessDecodesToTheRegisterOfTheMap : Obligations.AccessDecodesToTheRegisterOfTheMap := by
  intro off halign v
  have hread : decode [selector 0 off] = .ok (decodeRead off) := decode_encodeRead halign
  have hwrite : decode [selector 1 off, v] = .ok (decodeWrite off v) := decode_encodeWrite v halign
  rw [hread, hwrite]
  refine ⟨fun r hr => ?_, fun hnone => ?_⟩
  · have hsome : decodeOffset off.toNat = some r := decodeOffset_eq_some_iff.mpr hr
    rw [decodeRead_of_some hsome, decodeWrite_of_some v hsome]
    exact ⟨rfl, rfl⟩
  · have hunknown := decodeOffset_eq_none_of_forall hnone
    rw [decodeRead_of_none hunknown, decodeWrite_of_none v hunknown]
    exact ⟨rfl, rfl⟩

end Sys2Proof.Machine
end

section
/-! The encoding of the bus accesses by register and offset: an access to a register is encoded at its offset, and what
an offset decodes to is encoded at that offset (30_encoding.md R70 to R72). -/

namespace Sys2Proof

theorem encode_rd (r : Reg) : encode (.rd r) = encodeRead (BitVec.ofNat 30 r.offset) := by
  cases r with
  | tcsr i | ticr i | tdr i => match i with | 0 | 1 | 2 | 3 | 4 => rfl
  | tisr => rfl
  | wtcr => rfl

theorem encode_wr (r : Reg) (v : Word) : encode (.wr r v) = encodeWrite (BitVec.ofNat 30 r.offset) v := by
  cases r with
  | tcsr i | ticr i | tdr i => match i with | 0 | 1 | 2 | 3 | 4 => rfl
  | tisr => rfl
  | wtcr => rfl

theorem wellFormed_rd (r : Reg) : (Instr.rd r).wellFormed = true := by
  cases r with
  | tcsr i | ticr i | tdr i => match i with | 0 | 1 | 2 | 3 | 4 => rfl
  | tisr => rfl
  | wtcr => rfl

theorem wellFormed_wr (r : Reg) (v : Word) : (Instr.wr r v).wellFormed = true := by
  cases r with
  | tcsr i | ticr i | tdr i => match i with | 0 | 1 | 2 | 3 | 4 => rfl
  | tisr => rfl
  | wtcr => rfl

/-- An access to an unknown offset is well-formed at the aligned offsets that decode to nothing (R165, R166). -/
theorem wellFormed_rdUnknown_iff (off : BitVec 30) :
    (Instr.rdUnknown off).wellFormed = true ↔ off.toNat % 4 = 0 ∧ decodeOffset off.toNat = none := by
  simp only [Instr.wellFormed, Bool.and_eq_true, decide_eq_true_eq, decodeOffset_eq_none]

theorem wellFormed_wrUnknown_iff (off : BitVec 30) (v : Word) :
    (Instr.wrUnknown off v).wellFormed = true ↔ off.toNat % 4 = 0 ∧ decodeOffset off.toNat = none :=
  wellFormed_rdUnknown_iff off

/-- The selector's offset field holds every register's offset. -/
theorem toNat_ofNat_offset (r : Reg) : (BitVec.ofNat 30 r.offset).toNat = r.offset := by
  obtain ⟨-, hlt⟩ := offset_aligned r
  exact (BitVec.toNat_ofNat r.offset 30).trans (Nat.mod_eq_of_lt (by omega))

theorem ofNat_offset_aligned (r : Reg) : (BitVec.ofNat 30 r.offset).toNat % 4 = 0 := by
  obtain ⟨halign, -⟩ := offset_aligned r
  rwa [toNat_ofNat_offset]

theorem decodeOffset_ofNat_offset (r : Reg) : decodeOffset (BitVec.ofNat 30 r.offset).toNat = some r := by
  rw [toNat_ofNat_offset, decodeOffset_offset]

theorem ofNat_offset_of_decodeOffset {off : BitVec 30} {r : Reg} (h : decodeOffset off.toNat = some r) :
    BitVec.ofNat 30 r.offset = off := by
  rw [offset_of_decodeOffset h, BitVec.ofNat_toNat, BitVec.setWidth_eq]

theorem decode_encode_rd (r : Reg) : decode (encode (.rd r)) = .ok (.rd r) := by
  rw [encode_rd, decode_encodeRead (ofNat_offset_aligned r), decodeRead_of_some (decodeOffset_ofNat_offset r)]

theorem decode_encode_wr (r : Reg) (v : Word) : decode (encode (.wr r v)) = .ok (.wr r v) := by
  rw [encode_wr, decode_encodeWrite v (ofNat_offset_aligned r), decodeWrite_of_some v (decodeOffset_ofNat_offset r)]

theorem encode_decodeRead (off : BitVec 30) : encode (decodeRead off) = encodeRead off := by
  cases hd : decodeOffset off.toNat with
  | some r => rw [decodeRead_of_some hd, encode_rd, ofNat_offset_of_decodeOffset hd]
  | none => rw [decodeRead_of_none hd, encode]

theorem encode_decodeWrite (off : BitVec 30) (v : Word) : encode (decodeWrite off v) = encodeWrite off v := by
  cases hd : decodeOffset off.toNat with
  | some r => rw [decodeWrite_of_some v hd, encode_wr, ofNat_offset_of_decodeOffset hd]
  | none => rw [decodeWrite_of_none v hd, encode]

theorem wellFormed_decodeRead {off : BitVec 30} (h : off.toNat % 4 = 0) : (decodeRead off).wellFormed = true := by
  cases hd : decodeOffset off.toNat with
  | some r => rw [decodeRead_of_some hd, wellFormed_rd]
  | none => rw [decodeRead_of_none hd, wellFormed_rdUnknown_iff]; exact ⟨h, hd⟩

theorem wellFormed_decodeWrite {off : BitVec 30} (v : Word) (h : off.toNat % 4 = 0) :
    (decodeWrite off v).wellFormed = true := by
  cases hd : decodeOffset off.toNat with
  | some r => rw [decodeWrite_of_some v hd, wellFormed_wr]
  | none => rw [decodeWrite_of_none v hd, wellFormed_wrUnknown_iff]; exact ⟨h, hd⟩

end Sys2Proof
end

section
/-! The words of a record and of a duration, read and written (30_encoding.md R78; 45_host_operations.md R183; log
entry 4). -/

namespace Sys2Proof

/-- A record is its five channels and its two shared words. -/
theorem snapshot_eta (p : Snapshot) :
    (⟨#v[p.ch[0], p.ch[1], p.ch[2], p.ch[3], p.ch[4]], p.interruptStatus, p.watchdogControl⟩ : Snapshot) = p := by
  have hch : #v[p.ch[0], p.ch[1], p.ch[2], p.ch[3], p.ch[4]] = p.ch := by
    ext1 i hi
    interval_cases i <;> rfl
  rw [hch]

theorem snapshot_wellFormed_iff (p : Snapshot) :
    p.wellFormed = true ↔ p.ch[0].wellFormed = true ∧ p.ch[1].wellFormed = true ∧ p.ch[2].wellFormed = true
      ∧ p.ch[3].wellFormed = true ∧ p.ch[4].wellFormed = true := by
  simp only [Snapshot.wellFormed, Bool.and_eq_true, and_assoc]

/-- A record's words are read back when its times fit their fields. -/
theorem decodeSnapshot_encodeSnapshot (p : Snapshot) (h : p.wellFormed = true) :
    decodeSnapshot (encodeSnapshot p) = some p := by
  obtain ⟨h0, h1, h2, h3, h4⟩ := (snapshot_wellFormed_iff p).mp h
  simp only [encodeSnapshot, List.append_assoc, decodeSnapshot, Option.bind_eq_bind, Option.bind_some,
    decodeChannel_encodeChannel _ h0, decodeChannel_encodeChannel _ h1, decodeChannel_encodeChannel _ h2,
    decodeChannel_encodeChannel _ h3, decodeChannel_encodeChannel _ h4, snapshot_eta]

/-- What reads as a record is that record's words. -/
theorem encodeSnapshot_of_decodeSnapshot {ws : List Word} {p : Snapshot} (h : decodeSnapshot ws = some p) :
    p.wellFormed = true ∧ encodeSnapshot p = ws := by
  simp only [decodeSnapshot, Option.bind_eq_bind, Option.bind_eq_some_iff, Prod.exists] at h
  obtain ⟨c0, ws0, h0, c1, ws1, h1, c2, ws2, h2, c3, ws3, h3, c4, ws4, h4, h⟩ := h
  obtain ⟨rfl, hc0⟩ := encodeChannel_of_decodeChannel h0
  obtain ⟨rfl, hc1⟩ := encodeChannel_of_decodeChannel h1
  obtain ⟨rfl, hc2⟩ := encodeChannel_of_decodeChannel h2
  obtain ⟨rfl, hc3⟩ := encodeChannel_of_decodeChannel h3
  obtain ⟨rfl, hc4⟩ := encodeChannel_of_decodeChannel h4
  split at h
  · cases h
    refine ⟨(snapshot_wellFormed_iff _).mpr ⟨hc0, hc1, hc2, hc3, hc4⟩, ?_⟩
    simp only [encodeSnapshot, List.append_assoc]
    rfl
  · cases h

theorem withoutOperands_eq_ok_iff {ops : List Word} {i j : Instr} :
    withoutOperands ops i = .ok j ↔ ops = [] ∧ i = j := by
  cases ops <;> simp [withoutOperands]

theorem withDataWord_eq_ok {ops : List Word} {off : BitVec 30} {i : Instr} (h : withDataWord ops off = .ok i) :
    ∃ v, ops = [v] ∧ i = decodeWrite off v := by
  unfold withDataWord at h
  split at h <;> cases h
  exact ⟨_, rfl, rfl⟩

theorem wellFormed_advance_iff (d : Nat) : (Instr.advance d).wellFormed = true ↔ 0 < d ∧ d ≤ 2 ^ 64 := by
  simp only [Instr.wellFormed, Bool.and_eq_true, decide_eq_true_eq]

/-- A duration's two words are read back when it is positive and fits them. -/
theorem withDuration_dwordWords {d : Nat} (h : (Instr.advance d).wellFormed = true) :
    withDuration (dwordWords (BitVec.ofNat 64 (d - 1))) = .ok (.advance d) := by
  obtain ⟨hpos, hle⟩ := (wellFormed_advance_iff d).mp h
  have hval : (BitVec.ofNat 64 (d - 1)).toNat + 1 = d := by
    rw [BitVec.toNat_ofNat, Nat.mod_eq_of_lt (by omega), Nat.sub_add_cancel hpos]
  rw [dwordWords, withDuration, dword_words, hval]

/-- Any two words are those of a positive duration that fits them. -/
theorem dwordWords_of_withDuration {ops : List Word} {i : Instr} (h : withDuration ops = .ok i) :
    ∃ d, i = .advance d ∧ (Instr.advance d).wellFormed = true ∧ dwordWords (BitVec.ofNat 64 (d - 1)) = ops := by
  unfold withDuration at h
  split at h
  · next lo hi =>
    cases h
    refine ⟨_, rfl, (wellFormed_advance_iff _).mpr ⟨Nat.succ_pos _, (dword lo hi).isLt⟩, ?_⟩
    rw [Nat.add_sub_cancel, BitVec.ofNat_toNat, BitVec.setWidth_eq, dwordWords_dword]
  · cases h

theorem withRecord_encodeSnapshot {p : Snapshot} (h : p.wellFormed = true) :
    withRecord (encodeSnapshot p) = .ok (.restore p) := by
  simp only [withRecord, decodeSnapshot_encodeSnapshot p h]

theorem encodeSnapshot_of_withRecord {ops : List Word} {i : Instr} (h : withRecord ops = .ok i) :
    ∃ p, i = .restore p ∧ p.wellFormed = true ∧ encodeSnapshot p = ops := by
  unfold withRecord at h
  split at h
  · next p hp => cases h; exact ⟨p, rfl, encodeSnapshot_of_decodeSnapshot hp⟩
  · cases h

end Sys2Proof
end

section
/-! Decode and encode are inverse on operations and words: by kind of operation, and by class of selector
(30_encoding.md R71, R78, R79). -/

namespace Sys2Proof.Machine

theorem decode_encodeEvent (number : BitVec 30) (ops : List Word) :
    decode (encodeEvent number ops) = decodeEvent number.toNat ops := by
  rw [encodeEvent, decode, selClass_selector, selField_selector]
  rfl

/-- Settles O1: an access decodes by the register or the unknown offset it stands at, an event by its number, and the
operands of ADVANCE and RESTORE by the round trips of their words. -/
theorem decodeOfEncode : Obligations.DecodeOfEncode := by
  intro i hwf
  induction i using instr_cases with
  | rd r => exact decode_encode_rd r
  | wr r v => exact decode_encode_wr r v
  | rdUnknown off =>
    obtain ⟨halign, hnone⟩ := (wellFormed_rdUnknown_iff off).mp hwf
    rw [encode, decode_encodeRead halign, decodeRead_of_none hnone]
  | wrUnknown off v =>
    obtain ⟨halign, hnone⟩ := (wellFormed_wrUnknown_iff off v).mp hwf
    rw [encode, decode_encodeWrite v halign, decodeWrite_of_none v hnone]
  | configure => exact decode_encodeEvent 0 []
  | reset => exact decode_encodeEvent 1 []
  | snapshot => exact decode_encodeEvent 2 []
  | restore p => exact (decode_encodeEvent 3 _).trans (withRecord_encodeSnapshot hwf)
  | advance d => exact (decode_encodeEvent 4 _).trans (withDuration_dwordWords hwf)
  | expire k => match k with | 0 | 1 | 2 | 3 | 4 => exact decode_encodeEvent _ []

/-- An event that decodes is encoded under its number, with all its operand words. -/
theorem encode_of_decodeEvent {number : Nat} {ops : List Word} {i : Instr} (h : decodeEvent number ops = .ok i) :
    i.wellFormed = true ∧ encode i = encodeEvent (BitVec.ofNat 30 number) ops := by
  match number, h with
  | 3, h =>
    obtain ⟨p, rfl, hwf, rfl⟩ := encodeSnapshot_of_withRecord h
    exact ⟨hwf, rfl⟩
  | 4, h =>
    obtain ⟨d, rfl, hwf, rfl⟩ := dwordWords_of_withDuration h
    exact ⟨hwf, rfl⟩
  | 0, h | 1, h | 2, h | 8, h | 9, h | 10, h | 11, h | 12, h =>
    obtain ⟨rfl, rfl⟩ := withoutOperands_eq_ok_iff.mp h
    exact ⟨rfl, rfl⟩
  | 5, h | 6, h | 7, h | _ + 13, h => cases h

/-- What a selector's class, field and operand words decode to is encoded as that selector and those words. -/
theorem encode_of_decodeSelected {cls : BitVec 2} {field : BitVec 30} {ops : List Word} {i : Instr}
    (h : decodeSelected cls field ops = .ok i) : i.wellFormed = true ∧ encode i = selector cls field :: ops := by
  unfold decodeSelected at h
  split at h
  · split at h
    · cases h
    · next haligned =>
      obtain ⟨rfl, rfl⟩ := withoutOperands_eq_ok_iff.mp h
      exact ⟨wellFormed_decodeRead (not_not.mp haligned), encode_decodeRead field⟩
  · split at h
    · cases h
    · next haligned =>
      obtain ⟨v, rfl, rfl⟩ := withDataWord_eq_ok h
      exact ⟨wellFormed_decodeWrite v (not_not.mp haligned), encode_decodeWrite field v⟩
  · obtain ⟨hwf, hencode⟩ := encode_of_decodeEvent h
    rw [BitVec.ofNat_toNat, BitVec.setWidth_eq] at hencode
    exact ⟨hwf, hencode⟩
  · cases h

/-- Settles O2: the first word is the selector of its own class and field. -/
theorem encodeOfDecode : Obligations.EncodeOfDecode := by
  intro ws i h
  cases ws with
  | nil => cases h
  | cons sel ops =>
    have hencode := encode_of_decodeSelected h
    rwa [selector_fields] at hencode

/-- Settles O3: the words of each trace are the encoding of the operation it names. -/
theorem traceWordsDecode : Obligations.TraceWordsDecode :=
  ⟨decodeOfEncode .rdTcsr3 rfl, decodeOfEncode (.wrTcsr0 0x44000000) rfl, decodeOfEncode (.wrTicr3 50) rfl,
    decodeOfEncode .rdTdr4 rfl, decodeOfEncode (.wrTisr 0x11) rfl, decodeOfEncode .rdWtcr rfl,
    decodeOfEncode (.rdUnknown 0x44) rfl, decodeOfEncode (.wrUnknown 0x38 0xFFFFFFFF) rfl,
    decodeOfEncode .reset rfl, decodeOfEncode .expire3 rfl⟩

end Sys2Proof.Machine
end

section
/-! The conversions between counts and nanoseconds (40_primitives.md R101 to R103), and that every time of a state with
the invariants fits 64 bits (R105). -/

namespace Sys2Proof.Machine

variable {npt d : Nat}

theorem countToNs_eq (npt : Nat) (count : Word) (d : Nat) :
    countToNs npt count d = (count.toNat : Int) * npt * d := by
  rw [countToNs, Int.natCast_mul, Int.natCast_mul]

/-- The longest duration stays below `2^63` at every tick that R100 admits. -/
theorem maxDuration_lt (c : Config) : maxDuration c.nsPerTick < 2 ^ 63 := by
  obtain ⟨-, htick⟩ := nsPerTick_bounds c
  rw [maxDuration]
  omega

/-- Settles O11: the product itself, bounded by the longest duration, which the largest admitted tick keeps below
`2^63`. -/
theorem countToNanoseconds : Obligations.CountToNanoseconds := by
  intro c count d _ hd
  have hle := countToNs_le c.nsPerTick count hd
  have hlt := maxDuration_lt c
  exact ⟨countToNs_eq _ _ _, by simp [countToNs_eq], by simpa [maxDuration] using hle, by simpa [maxDuration] using hlt⟩

/-- A count survives the way to nanoseconds and back, since the unit `npt * d` it is multiplied by is what it is divided
by (R103 (c)). -/
theorem nsToCount_countToNs (count : Word) (hunit : 0 < npt * d) : nsToCount npt (countToNs npt count d) d = count := by
  have hquot : count.toNat * npt * d / (npt * d) = count.toNat := by
    rw [Nat.mul_assoc, Nat.mul_div_cancel _ hunit]
  rw [nsToCount_of_nonneg npt (countToNs_nonneg npt count d), countToNs, Int.toNat_natCast, hquot,
    BitVec.ofNat_toNat, BitVec.setWidth_eq]

/-- Settles O12: no admitted tick and no divisor is 0, so neither is the unit. -/
theorem countRoundTrip : Obligations.CountRoundTrip := by
  intro c count d hd _
  obtain ⟨htick, -⟩ := nsPerTick_bounds c
  exact nsToCount_countToNs count (Nat.mul_pos htick hd)

/-- The count of a time is its quotient by the unit, where that fits 32 bits (R103 (b)). -/
theorem toNat_nsToCount {ns : Nat} (hfit : ns / (npt * d) < 2 ^ 32) :
    (nsToCount npt ns d).toNat = ns / (npt * d) := by
  rw [nsToCount_of_nonneg npt (Int.natCast_nonneg ns), Int.toNat_natCast, BitVec.toNat_ofNat, Nat.mod_eq_of_lt hfit]

/-- A time converted to a count and back is cut down to a multiple of the unit (R103 (d)). -/
theorem countToNs_nsToCount {ns : Nat} (hfit : ns / (npt * d) < 2 ^ 32) :
    countToNs npt (nsToCount npt ns d) d = (ns / (npt * d) * (npt * d) : Nat) := by
  rw [countToNs, toNat_nsToCount hfit, Nat.mul_assoc]

/-- Settles O13: a quotient times its divisor is at most the dividend, and is the dividend when the divisor divides
it. -/
theorem nanosecondsRoundDown : Obligations.NanosecondsRoundDown := by
  intro c ns d _ _ hfit
  refine ⟨toNat_nsToCount hfit, ?_, ?_⟩ <;> rw [countToNs_nsToCount hfit]
  · exact Int.ofNat_le.mpr (Nat.div_mul_le_self ns _)
  · exact Int.natCast_inj.trans (Nat.dvd_iff_div_mul_eq ns _).symm

/-- Settles O59: no time lies below 0 or above `now` plus the longest duration, for which the environment leaves room. -/
theorem timesFitSixtyFourBits : Obligations.TimesFitSixtyFourBits := by
  intro s ⟨hnow, hchan⟩ hroom
  have hmax := maxDuration_nonneg s.npt
  rw [TimeRoom] at hroom
  simp only [fitsInt64_iff]
  refine ⟨by omega, fun i => ?_⟩
  obtain ⟨hrem, hremMax, hdead, hdeadMax, -⟩ := hchan i
  exact ⟨by omega, by omega, by omega⟩

end Sys2Proof.Machine
end

section
/-! The fatal assertion (40_primitives.md R107, 60_exceptions.md R206): which operation raises it, and that no step does
from a state with the invariants. -/

namespace Sys2Proof.Machine

variable {s : State} {f : Fault} {i : Instr}

theorem whenNoneDue_eq_fault_iff {k : Result} : whenNoneDue s k = .fault f ↔ NoneDue s ∧ k = .fault f := by
  rw [noneDue_iff]
  cases hdue : s.anyDue <;> simp [whenNoneDue, hdue]

/-- A control write raises the fatal assertion exactly when it stops a channel with nothing left (R107). -/
theorem writeControl_eq_fault_iff {k : Fin 5} {v : Word} :
    writeControl k v s = .fault f ↔
      f = .internalInvariantViolation k ∧ Disables k v s ∧ (s.chan k).deadlineNs - s.now ≤ 0 := by
  obtain ⟨hstop, hle, hfault⟩ | ⟨hrest, hnext⟩ := writeControl_cases k v s
  · rw [hfault, Host.Outcome.fault.injEq, eq_comm]
    exact (and_iff_left ⟨hstop, hle⟩).symm
  · simp only [hnext, reduceCtorEq, false_iff]
    rintro ⟨-, hstop, hle⟩
    exact absurd (hrest hstop) hle.not_gt

/-- Of the writes of a register only a control write can raise the fatal assertion (R206). -/
theorem regWrite_fault {r : Reg} {v : Word} (h : regWrite r.offset v s = .fault f) :
    ∃ k, r = .tcsr k ∧ writeControl k v s = .fault f := by
  rw [regWrite, decodeOffset_offset] at h
  cases r with
  | tcsr k => exact ⟨k, rfl, h⟩
  | ticr | tdr | tisr | wtcr => cases h

/-- An operation that raises the fatal assertion is a control write, and does so by its meaning with nothing due. -/
theorem exec_fault (h : exec i s = .fault f) :
    ∃ k v, i = .wr (.tcsr k) v ∧ NoneDue s ∧ writeControl k v s = .fault f := by
  induction i using instr_cases with
  | rd r =>
    rw [exec_rd, busRead, whenNoneDue_eq_fault_iff] at h
    cases h.2
  | wr r v =>
    rw [exec_wr, whenNoneDue_eq_fault_iff] at h
    obtain ⟨hnone, hwrite⟩ := h
    obtain ⟨k, rfl, hfault⟩ := regWrite_fault hwrite
    exact ⟨k, v, rfl, hnone, hfault⟩
  | rdUnknown off =>
    rw [exec_rdUnknown, unknownOffset, whenNoneDue_eq_fault_iff] at h
    split at h <;> cases h.2
  | wrUnknown off v =>
    rw [exec_wrUnknown, unknownOffset, whenNoneDue_eq_fault_iff] at h
    split at h <;> cases h.2
  | configure => cases h
  | reset => cases h
  | snapshot =>
    rw [exec_snapshot, whenNoneDue_eq_fault_iff] at h
    cases h.2
  | restore p =>
    rw [exec_restore] at h
    split at h <;> cases h
  | advance d =>
    rw [exec_advance] at h
    split at h
    · cases h
    · rw [whenNoneDue_eq_fault_iff] at h
      split at h <;> cases h.2
  | expire k =>
    rw [exec_expire, expireOp] at h
    split at h <;> cases h

/-- Settles O27: only a control write can raise the fatal assertion, and it does so exactly when R107 says. -/
theorem fatalAssertionExactly : Obligations.FatalAssertionExactly := by
  refine ⟨fun _ => rfl, fun i s f => ⟨fun h => ?_, ?_⟩⟩
  · obtain ⟨k, v, hi, hnone, hfault⟩ := exec_fault h
    obtain ⟨hf, hstop, hle⟩ := writeControl_eq_fault_iff.mp hfault
    exact ⟨k, v, hi, hf, hnone, hstop, hle⟩
  · rintro ⟨k, v, rfl, hf, hnone, hstop, hle⟩
    rw [exec_wr_tcsr, whenNoneDue_eq_fault_iff]
    exact ⟨hnone, writeControl_eq_fault_iff.mpr ⟨hf, hstop, hle⟩⟩

/-- With the invariants and nothing due every control write completes, so no operation raises the fatal assertion. -/
theorem exec_noFault (i : Instr) (hinv : BlockInv s) : NoFault (exec i s) := by
  intro f h
  obtain ⟨k, v, -, hnone, hfault⟩ := exec_fault h
  obtain ⟨t, hnext⟩ := writeControl_completes k v hinv hnone
  cases hfault.symm.trans hnext

/-- Settles O58: a step waits, refuses, or performs one operation, with other requests offered, which no invariant
reads. -/
theorem noStepRaisesTheFatalAssertion : Obligations.NoStepRaisesTheFatalAssertion := by
  intro s hinv
  obtain ⟨-, -, hstep⟩ | ⟨k, -, -, hstep⟩ | ⟨ws, rest, i, -, -, -, hstep⟩ | ⟨ws, rest, e, -, -, -, hstep⟩ :=
    step_cases s <;> rw [hstep]
  · exact fun _ => nofun
  · exact exec_noFault _ hinv
  · exact exec_noFault (s := s.setInputs rest) i hinv
  · exact fun _ => nofun

end Sys2Proof.Machine
end

section
/-! Pause and resume (40_primitives.md R106, R107): the rest of a run is kept in `remaining_ns` while the channel is
stopped, and the deadline is computed from it when the channel is started again. -/

namespace Sys2Proof.Machine

variable {s t : State} {k : Fin 5} {v : Word}

theorem exec_wr_tcsr_next (h : exec (.wr (.tcsr k) v) s = .next t) :
    t = (s.emit (writeDiags v)).setChan k (controlDone s.npt s.now s.tisr k v (s.chan k)) := by
  rw [exec_wr_tcsr] at h
  obtain ⟨-, hwrite⟩ := whenNoneDue_next h
  obtain ⟨-, -, hfault⟩ | ⟨-, hnext⟩ := writeControl_cases k v s
  · cases hwrite.symm.trans hfault
  · cases hwrite.symm.trans hnext
    rfl

theorem exec_advance_next {d : Nat} (h : exec (.advance d) s = .next t) : t = s.setNow (s.now + d) := by
  rw [exec_advance] at h
  split at h
  · cases h
  · obtain ⟨-, hmove⟩ := whenNoneDue_next h
    split at hmove <;> cases hmove
    rfl

/-- A control write that stops a running channel keeps the rest of its run (R107), whatever else it writes. -/
theorem rest_kept_of_pause (hstop : Disables k v s) (h : exec (.wr (.tcsr k) v) s = .next t) :
    running (t.chan k).control = false ∧ (t.chan k).remainingNs = (s.chan k).deadlineNs - s.now := by
  obtain ⟨hrun, hoff⟩ := hstop
  rw [exec_wr_tcsr_next h, chan_setChan_self]
  simp [controlDone, controlWritten, hrun, hoff]

/-- A control write that starts a stopped channel without CRST gives it its old rest to run (R106). -/
theorem rest_of_resume (hoff : running (s.chan k).control = false) (hon : running v = true)
    (hcrst : anySet v maskCRST = false) (h : exec (.wr (.tcsr k) v) s = .next t) :
    (t.chan k).armed = true ∧ (t.chan k).deadlineNs - t.now = (s.chan k).remainingNs := by
  rw [exec_wr_tcsr_next h, chan_setChan_self]
  simp [controlDone, controlWritten, hoff, hon, hcrst]

/-- Settles O47: the pause stores the rest, the ADVANCE changes only the time, and the resume takes the stored rest. -/
theorem pauseAndResumeKeepTheRest : Obligations.PauseAndResumeKeepTheRest := by
  intro k v w s a d b c _ hstop hpause hadvance hon hcrst hresume
  obtain ⟨hoff, hrest⟩ := rest_kept_of_pause hstop hpause
  have hchan : b.chan k = a.chan k := by rw [exec_advance_next hadvance, setNow_chan]
  rw [← hchan] at hoff hrest
  obtain ⟨harmed, hleft⟩ := rest_of_resume hoff hon hcrst hresume
  exact ⟨harmed, hleft.trans hrest⟩

end Sys2Proof.Machine
end

section
/-! Time and its enabling (41_expiration_and_time.md R125, R126, R132): what ADVANCE does, which operations take place
while a channel is due, and the step with nothing to do. -/

namespace Sys2Proof.Machine

variable {s t : State} {i : Instr} {k : Fin 5} {d : Nat}

/-- With nothing due the armed deadlines alone decide whether an ADVANCE of a positive duration completes (R125). -/
theorem exec_advance_of_noneDue (hpos : 0 < d) (hnone : NoneDue s) :
    exec (.advance d) s =
      if s.mayAdvance d then .next (s.setNow (s.now + d)) else .refused .passesDeadline := by
  rw [exec_advance, if_neg hpos.ne', whenNoneDue_of_noneDue hnone]

theorem noneDue_of_whenNoneDue_next {r : Result} (h : whenNoneDue s r = .next t) : NoneDue s := by
  obtain ⟨hnone, -⟩ := whenNoneDue_next h
  exact (noneDue_iff s).mpr hnone

theorem exec_advance_enabled (h : exec (.advance d) s = .next t) :
    0 < d ∧ NoneDue s ∧ s.mayAdvance d = true := by
  rw [exec_advance] at h
  split at h
  · cases h
  · next hd =>
    obtain ⟨hnone, hmove⟩ := whenNoneDue_next h
    split at hmove
    · next hmay => exact ⟨Nat.pos_of_ne_zero hd, (noneDue_iff s).mpr hnone, hmay⟩
    · cases hmove

theorem exec_expire_next (h : exec (.expire k) s = .next t) : s.due k = true ∧ t = expireChannel k s := by
  rw [exec_expire, expireOp] at h
  split at h
  · next hdue => cases h; exact ⟨hdue, rfl⟩
  · cases h

theorem waitsForDue_expire (k : Fin 5) : waitsForDue (.expire k) = false := by
  match k with
  | 0 | 1 | 2 | 3 | 4 => rfl

/-- A bus access, SNAPSHOT or ADVANCE completes only while nothing is due (R126). -/
theorem noneDue_of_waits_of_next (hwaits : waitsForDue i = true) (h : exec i s = .next t) : NoneDue s := by
  induction i using instr_cases with
  | rd r => exact noneDue_of_whenNoneDue_next ((exec_rd r s).symm.trans h)
  | wr r v => exact noneDue_of_whenNoneDue_next ((exec_wr r v s).symm.trans h)
  | rdUnknown off => exact noneDue_of_whenNoneDue_next h
  | wrUnknown off v => exact noneDue_of_whenNoneDue_next h
  | configure | reset | restore => cases hwaits
  | snapshot => exact noneDue_of_whenNoneDue_next h
  | advance d =>
    obtain ⟨-, hnone, -⟩ := exec_advance_enabled h
    exact hnone
  | expire k => exact absurd hwaits (by simp [waitsForDue_expire])

/-- Settles O9: each clause is what the kind of operation it speaks of tests before it takes place. -/
theorem onlyEnabledOperationsTakePlace : Obligations.OnlyEnabledOperationsTakePlace := by
  intro i s t h
  refine ⟨fun hwaits => noneDue_of_waits_of_next hwaits h, ?_, ?_⟩
  · rintro k rfl
    obtain ⟨hdue, -⟩ := exec_expire_next h
    exact (due_iff s k).mp hdue
  · rintro d rfl
    obtain ⟨hpos, -, hmay⟩ := exec_advance_enabled h
    exact ⟨hpos, (mayAdvance_iff s d).mp hmay⟩

/-- Settles O36: its two conditions are `mayAdvance` and its negation. -/
theorem advanceMovesOnlyTime : Obligations.AdvanceMovesOnlyTime := by
  intro d s hpos hnone
  rw [exec_advance_of_noneDue hpos hnone]
  refine ⟨fun hall => if_pos ((mayAdvance_iff s d).mpr hall), ?_⟩
  rintro ⟨k, harmed, hpassed⟩
  exact if_neg fun hmay => hpassed.not_ge ((mayAdvance_iff s d).mp hmay k harmed)

theorem fetchOffered_of_nil (hin : s.inputs = []) : fetchOffered s = .idle := by
  simp only [fetchOffered, hin]

/-- Settles O8: no expiration comes first, and there is no first request. -/
theorem nothingOfferedWaits : Obligations.NothingOfferedWaits := by
  intro s hin hnone
  simp only [step, fetch_of_noneDue hnone, fetchOffered_of_nil hin]

end Sys2Proof.Machine
end

section
/-! The expiration (41_expiration_and_time.md R122 to R124, R129 to R131): it acts on its own channel and latch, by the
channel and the time alone, whatever the other channels hold. -/

namespace Sys2Proof.Machine

variable {s t : State} {j k : Fin 5} {c : Channel} {npt : Nat} {now : Int} {tisr : Word}

/-- A channel after its expiration at `now`, with a tick of `npt` nanoseconds (R122, R129). -/
def expired (npt : Nat) (now : Int) (c : Channel) : Channel :=
  if running c.control then
    if anySet c.control maskPERIODIC then
      { c with
        remainingNs := freshDuration npt c.reload c.control
        deadlineNs := now + freshDuration npt c.reload c.control
        armed := true
        irq := anySet c.control maskIE }
    else
      { c with
        control := c.control &&& ~~~(maskCEN ||| maskCACT)
        remainingNs := 0
        armed := false
        irq := anySet c.control maskIE }
  else { c with armed := false }

/-- The interrupt-status word after the expiration of channel `k`, which was `c` (R122, R129). -/
def expiredTisr (k : Fin 5) (c : Channel) (tisr : Word) : Word := if running c.control then setLatch tisr k else tisr

theorem expired_stale (hrun : running c.control = false) : expired npt now c = { c with armed := false } := by
  simp [expired, hrun]

/-- The one-shot arm clears bits 30 and 25 of the control register (R122, 90_conflicts.md C3). -/
theorem expired_oneShot (hrun : running c.control = true) (hper : anySet c.control maskPERIODIC = false) :
    expired npt now c =
      { c with
        control := c.control &&& 0xBDFFFFFF
        remainingNs := 0
        armed := false
        irq := anySet c.control maskIE } := by
  have hmask : ~~~(maskCEN ||| maskCACT) = 0xBDFFFFFF := by decide
  simp [expired, hrun, hper, hmask]

theorem expired_periodic (hrun : running c.control = true) (hper : anySet c.control maskPERIODIC = true) :
    expired npt now c =
      { c with
        remainingNs := freshDuration npt c.reload c.control
        deadlineNs := now + freshDuration npt c.reload c.control
        armed := true
        irq := anySet c.control maskIE } := by
  simp [expired, hrun, hper]

/-- An expiration drives the line to interrupt-enable, since the latch is then set, unless it is stale (R104, R122). -/
theorem expired_irq (npt : Nat) (now : Int) (c : Channel) :
    (expired npt now c).irq = if running c.control then anySet c.control maskIE else c.irq := by
  unfold expired
  split
  · split <;> rfl
  · rfl

theorem expiredTisr_of_running (hrun : running c.control = true) : expiredTisr k c tisr = setLatch tisr k :=
  if_pos hrun

theorem expiredTisr_of_not_running (hrun : running c.control = false) : expiredTisr k c tisr = tisr := by
  simp [expiredTisr, hrun]

/-- Everything an expiration does: it writes the interrupt-status word and its own channel. -/
theorem expireChannel_eq (k : Fin 5) (s : State) :
    expireChannel k s =
      (s.setTisr (expiredTisr k (s.chan k) s.tisr)).setChan k (expired s.npt s.now (s.chan k)) := by
  cases hrun : running (s.chan k).control with
  | false => rw [expireChannel_stale hrun, expired_stale hrun, expiredTisr_of_not_running hrun]; rfl
  | true =>
    rw [expiredTisr_of_running hrun]
    cases hper : anySet (s.chan k).control maskPERIODIC with
    | false => rw [expireChannel_oneShot hrun hper, expired, if_pos hrun, if_neg (by simp [hper])]
    | true => rw [expireChannel_periodic hrun hper, expired_periodic hrun hper]

theorem expireChannel_chan_self (k : Fin 5) (s : State) :
    (expireChannel k s).chan k = expired s.npt s.now (s.chan k) := by
  rw [expireChannel_eq, chan_setChan_self]

theorem expireChannel_chan_of_ne (s : State) (h : j ≠ k) : (expireChannel k s).chan j = s.chan j := by
  rw [expireChannel_eq, chan_setChan_of_ne _ _ _ _ h, setTisr_chan]

/-- What an expiration leaves alone: the other channels, and all that is neither its channel nor a latch (R122). -/
theorem expireChannel_frame (k : Fin 5) (s : State) :
    (∀ j, j ≠ k → (expireChannel k s).chan j = s.chan j) ∧ (expireChannel k s).wtcr = s.wtcr
      ∧ (expireChannel k s).now = s.now ∧ SameOutside s (expireChannel k s)
      ∧ (expireChannel k s).diags = s.diags := by
  obtain ⟨hwtcr, hnow, hcfg, hinputs, hresp, hdiags⟩ := expireChannel_fields k s
  exact ⟨fun j hj => expireChannel_chan_of_ne s hj, hwtcr, hnow, ⟨hcfg, hinputs, hresp⟩, hdiags⟩

/-- Settles O37: the one-shot arm of R122, in the frame of every expiration. -/
theorem expireOneShot : Obligations.ExpireOneShot := by
  intro k s hdue hrun hper
  refine ⟨expireChannel k s, exec_expire_of_due hdue, ?_, ?_, expireChannel_frame k s⟩
  · rw [expireChannel_tisr, if_pos hrun]
    rfl
  · rw [expireChannel_chan_self, expired_oneShot hrun hper]

/-- The duration of a run is the product of its count, the tick and the divisor (R74, R101). -/
theorem freshDuration_eq (npt : Nat) (reload control : Word) :
    freshDuration npt reload control = (reload.toNat : Int) * npt * ((control &&& 0xFF).toNat + 1) := by
  rw [freshDuration, countToNs_eq, prescaleDivisor_eq, Nat.cast_succ]

/-- Settles O38: the periodic arm of R122, in the frame of every expiration; the new deadline is counted from `now`. -/
theorem expirePeriodic : Obligations.ExpirePeriodic := by
  intro k s hdue hrun hper period
  have hchan : (expireChannel k s).chan k =
      { s.chan k with
        remainingNs := period
        deadlineNs := s.now + period
        armed := true
        irq := anySet (s.chan k).control maskIE } := by
    rw [expireChannel_chan_self, expired_periodic hrun hper, freshDuration_eq]
  refine ⟨expireChannel k s, exec_expire_of_due hdue, ?_, hchan, fun hnow => ?_, expireChannel_frame k s⟩
  · rw [expireChannel_tisr, if_pos hrun]
    rfl
  · rw [hchan, ← hnow]

theorem exec_expire_of_not_due (hdue : s.due k = false) : exec (.expire k) s = .refused (.notDue k) := by
  simp only [exec_expire, expireOp, hdue, Bool.false_eq_true, if_false]

/-- Settles O39: the guard leaves only the cleared `armed` of a stale callback, and the enabling test refuses a channel
that is not due. -/
theorem expireStaleOrNotDue : Obligations.ExpireStaleOrNotDue := by
  refine ⟨fun k s hdue hrun => ?_, fun k s hdue => exec_expire_of_not_due hdue⟩
  obtain ⟨hothers, hwtcr, hnow, houtside, hdiags⟩ := expireChannel_frame k s
  have htisr : (expireChannel k s).tisr = s.tisr := by simp [expireChannel_tisr, hrun]
  have hchan : (expireChannel k s).chan k = { s.chan k with armed := false } := by
    rw [expireChannel_chan_self, expired_stale hrun]
  exact ⟨expireChannel k s, exec_expire_of_due hdue, hchan, ⟨hothers, htisr, hwtcr, hnow, houtside⟩, hdiags⟩

theorem setLatch_comm (tisr : Word) (j k : Fin 5) : setLatch (setLatch tisr j) k = setLatch (setLatch tisr k) j := by
  simp only [setLatch, BitVec.or_assoc, BitVec.or_comm (latchBit j)]

theorem expiredTisr_comm (tisr : Word) (j k : Fin 5) (c d : Channel) :
    expiredTisr k d (expiredTisr j c tisr) = expiredTisr j c (expiredTisr k d tisr) := by
  cases hc : running c.control with
  | false => simp only [expiredTisr_of_not_running hc]
  | true =>
    cases hd : running d.control with
    | false => simp only [expiredTisr_of_not_running hd]
    | true => simp only [expiredTisr_of_running hc, expiredTisr_of_running hd, setLatch_comm tisr j k]

/-- Two channels expire in either order to the same state: each reads only its own channel and the time (R123). -/
theorem expireChannel_comm (s : State) (h : j ≠ k) :
    expireChannel k (expireChannel j s) = expireChannel j (expireChannel k s) := by
  have hk : (expireChannel j s).chan k = s.chan k := expireChannel_chan_of_ne s h.symm
  have hj : (expireChannel k s).chan j = s.chan j := expireChannel_chan_of_ne s h
  rw [expireChannel_eq k, expireChannel_eq j (expireChannel k s), hk, hj, expireChannel_eq j, expireChannel_eq k]
  simp only [setTisr_setChan, setChan_tisr, setTisr_tisr, setChan_npt, setTisr_npt, setChan_now, setTisr_now,
    expiredTisr_comm s.tisr j k]
  exact setChan_comm _ j k _ _ h

/-- An expiration leaves the other due channels due: it moves neither their deadlines nor the time. -/
theorem due_expireChannel_of_ne (s : State) (h : j ≠ k) : (expireChannel k s).due j = s.due j := by
  rw [State.due, expireChannel_chan_of_ne s h, expireChannel_now, State.due]

/-- Settles O40: each channel is still due after the other's expiration, and the two expirations commute. -/
theorem expirationsCommute : Obligations.ExpirationsCommute := by
  intro j k s hne hj hk
  refine ⟨expireChannel j s, expireChannel k s, expireChannel k (expireChannel j s), exec_expire_of_due hj,
    exec_expire_of_due ?_, exec_expire_of_due hk, ?_⟩
  · rw [due_expireChannel_of_ne s hne.symm, hk]
  · rw [expireChannel_comm s hne]
    exact exec_expire_of_due (by rw [due_expireChannel_of_ne s hne, hj])

/-- Setting a latch that is set changes nothing. -/
theorem setLatch_of_set (h : tisr.getLsbD k.val = true) : setLatch tisr k = tisr := by
  apply BitVec.eq_of_getLsbD_eq
  intro n _
  rw [getLsbD_setLatch]
  by_cases hn : k.val = n
  · rw [← hn, h, Bool.true_or]
  · simp [hn]

/-- Settles O41: the latch is set already, and the line is driven to the level it has. -/
theorem expirationsAreNotCounted : Obligations.ExpirationsAreNotCounted := by
  intro k s t h hset
  obtain ⟨-, rfl⟩ := exec_expire_next h
  refine ⟨?_, fun hirq => ?_⟩
  · rw [expireChannel_tisr, setLatch_of_set hset, ite_self]
  · rw [expireChannel_chan_self, expired_irq, ← hirq, ite_self]

theorem freshDuration_zero (npt : Nat) (control : Word) : freshDuration npt 0 control = 0 := by
  simp [freshDuration_eq]

/-- A livelocked channel's expiration re-arms it for the same instant: its period is 0 (R124). -/
theorem livelocked_expireChannel (h : Livelocked k s) : Livelocked k (expireChannel k s) := by
  obtain ⟨hrun, hper, hreload, -, -⟩ := h
  have hperiod : freshDuration s.npt (s.chan k).reload (s.chan k).control = 0 := by rw [hreload, freshDuration_zero]
  rw [Livelocked, expireChannel_chan_self, expired_periodic hrun hper, expireChannel_now, hperiod, add_zero]
  exact ⟨hrun, hper, hreload, rfl, le_rfl⟩

theorem noneDue_resetBlock (s : State) : NoneDue (resetBlock s) := by
  rintro j ⟨harmed, -⟩
  rw [resetBlock_chan] at harmed
  exact Bool.false_ne_true harmed

/-- Settles O42: the livelock survives its expiration, is a due channel that every waiting operation finds, and is gone
with every callback after RESET. -/
theorem zeroPeriodLivelock : Obligations.ZeroPeriodLivelock := by
  intro k s hlive
  have ⟨_, _, _, hdue⟩ := hlive
  refine ⟨⟨expireChannel k s, exec_expire_of_due ((due_iff s k).mpr hdue), livelocked_expireChannel hlive,
    expireChannel_now k s⟩, fun i t hwaits h => ?_, resetBlock s, exec_reset s, noneDue_resetBlock s⟩
  exact noneDue_of_waits_of_next hwaits h k hdue

/-- Settles O43: the resume arms the channel for its rest, which is 0 from now. -/
theorem zeroDurationIsDueAtOnce : Obligations.ZeroDurationIsDueAtOnce := by
  intro k v s t h hoff hon hcrst hzero
  obtain ⟨harmed, hrest⟩ := rest_of_resume hoff hon hcrst h
  rw [due_iff]
  exact ⟨harmed, by omega⟩

end Sys2Proof.Machine
end

section
/-! The control register (42_control_register.md R140 to R146): what a completed write leaves in each field of its
channel, and which bits of the written word it reads. -/

namespace Sys2Proof.Machine

variable {s t : State} {k : Fin 5} {v : Word} {c : Channel}

/-- Settles O15: with nothing due the read answers at once. -/
theorem readControl : Obligations.ReadControl := by
  intro k s hnone
  rw [exec_rd_tcsr, busRead, whenNoneDue_of_noneDue hnone]
  rfl

/-- When a control write completes, and in which state (R126, R141). -/
theorem exec_wr_tcsr_eq_next_iff :
    exec (.wr (.tcsr k) v) s = .next t ↔
      NoneDue s ∧ (Disables k v s → s.now < (s.chan k).deadlineNs) ∧
        t = (s.emit (writeDiags v)).setChan k (controlDone s.npt s.now s.tisr k v (s.chan k)) := by
  constructor
  · intro h
    have hdone := exec_wr_tcsr_next h
    rw [exec_wr_tcsr] at h
    obtain ⟨hnone, hwrite⟩ := whenNoneDue_next h
    refine ⟨(noneDue_iff s).mpr hnone, fun hstop => ?_, hdone⟩
    obtain ⟨-, -, hfault⟩ | ⟨hrest, -⟩ := writeControl_cases k v s
    · cases hwrite.symm.trans hfault
    · exact Int.sub_pos.mp (hrest hstop)
  · rintro ⟨hnone, hahead, rfl⟩
    rw [exec_wr_tcsr, whenNoneDue_of_noneDue hnone]
    obtain ⟨hstop, hle, -⟩ | ⟨-, hnext⟩ := writeControl_cases k v s
    · exact absurd (Int.sub_pos.mpr (hahead hstop)) hle.not_gt
    · exact hnext

/-! ### The fields of the written channel -/

/-- The registers and the line are what steps 1 to 5 of a control write left; step 6 writes only the timing. The line
moves when interrupt-enable toggles, and only then (R141, R146). -/
theorem controlDone_registers (npt : Nat) (now : Int) (tisr : Word) (k : Fin 5) (v : Word) (c : Channel) :
    (controlDone npt now tisr k v c).control = storedControl c.control v
      ∧ (controlDone npt now tisr k v c).reload = c.reload
      ∧ (controlDone npt now tisr k v c).irq =
        if anySet (c.control ^^^ v) maskIE then irqLevel v tisr k else c.irq := by
  obtain ⟨-, hdone⟩ | ⟨-, -, hdone⟩ | ⟨-, -, hdone⟩ := controlDone_cases npt now tisr k v c <;> rw [hdone] <;>
    exact ⟨rfl, rfl, rfl⟩

/-- A callback is pending after a control write exactly when the channel is left running, if it was so before (R36). -/
theorem controlDone_armed (npt : Nat) (now : Int) (tisr : Word) (k : Fin 5) (v : Word)
    (h : c.armed = running c.control) : (controlDone npt now tisr k v c).armed = running v := by
  obtain ⟨hsame, hdone⟩ | ⟨-, hon, hdone⟩ | ⟨-, hoff, hdone⟩ := controlDone_cases npt now tisr k v c <;> rw [hdone]
  · simp [controlWritten, h, hsame]
  · exact hon.symm
  · exact hoff.symm

/-- The rest after a control write: a pause stores what was left of the run, over what CRST had put there (R107, R144);
otherwise CRST takes a fresh duration (R108). -/
theorem controlDone_remainingNs (npt : Nat) (now : Int) (tisr : Word) (k : Fin 5) (v : Word) (c : Channel) :
    (controlDone npt now tisr k v c).remainingNs =
      if running c.control && !running v then c.deadlineNs - now
      else if anySet v maskCRST then freshDuration npt c.reload v else c.remainingNs := by
  obtain ⟨hsame, hdone⟩ | ⟨hstopped, -, hdone⟩ | ⟨hrun, hoff, hdone⟩ := controlDone_cases npt now tisr k v c <;>
    rw [hdone]
  · simp [controlWritten, hsame]
  · simp [controlWritten, hstopped]
  · simp [hrun, hoff]

/-- The deadline moves exactly when a channel left running was started or reset: then it is the new rest from now
(R106, R108). -/
theorem controlDone_deadlineNs (npt : Nat) (now : Int) (tisr : Word) (k : Fin 5) (v : Word) (c : Channel) :
    (controlDone npt now tisr k v c).deadlineNs =
      if running v && (!running c.control || anySet v maskCRST) then now + (controlDone npt now tisr k v c).remainingNs
      else c.deadlineNs := by
  obtain ⟨hsame, hdone⟩ | ⟨hstopped, hon, hdone⟩ | ⟨-, hoff, hdone⟩ := controlDone_cases npt now tisr k v c <;>
    rw [hdone]
  · cases hrun : running v <;> cases hcrst : anySet v maskCRST <;> simp [controlWritten, hsame, hrun, hcrst]
  · simp [hstopped, hon]
  · simp [controlWritten, hoff]

/-! ### What a control write does -/

/-- The diagnostics of R203 by the masks' values, in their order. -/
theorem writeDiags_eq (v : Word) :
    writeDiags v = (if v &&& 0x01FFFF00 ≠ 0 then [.reservedBits] else [])
      ++ (if v &&& 0x02000000 ≠ 0 then [.readonlyBit] else []) := by
  simp [writeDiags, anySet, maskRSVD, maskCACT]

theorem onlyChannel_emit_setChan (k : Fin 5) (s : State) (cs : List Cause) (c : Channel) :
    OnlyChannel k s ((s.emit cs).setChan k c) :=
  ⟨fun j hj => chan_setChan_of_ne (s.emit cs) k j c hj, rfl, rfl, rfl, rfl, rfl, rfl⟩

/-- Settles O22: the write completes in the state of `controlDone`, whose control register is `storedControl`. -/
theorem controlWriteStores : Obligations.ControlWriteStores := by
  intro k v s hnone hahead
  obtain ⟨hcontrol, hreload, -⟩ := controlDone_registers s.npt s.now s.tisr k v (s.chan k)
  refine ⟨_, exec_wr_tcsr_eq_next_iff.mpr ⟨hnone, hahead, rfl⟩, ?_, ?_, ?_, onlyChannel_emit_setChan k s _ _⟩
  · rw [chan_setChan_self, hcontrol]
    rfl
  · rw [chan_setChan_self, hreload]
  · rw [setChan_diags, emit_diags, writeDiags_eq, List.append_assoc]

/-- Settles O23: the rows of R143 are the cases of the rules for the rest and for the deadline. -/
theorem controlWriteTiming : Obligations.ControlWriteTiming := by
  intro k v s t h harmed fresh crst old new
  have hchan : new = controlDone s.npt s.now s.tisr k v old := by
    simp only [new, old, exec_wr_tcsr_next h, chan_setChan_self]
  have hrem : new.remainingNs =
      if running old.control && !running v then old.deadlineNs - s.now else if crst then fresh else old.remainingNs := by
    rw [hchan, controlDone_remainingNs, freshDuration_eq]
  have hdead : new.deadlineNs =
      if running v && (!running old.control || crst) then s.now + new.remainingNs else old.deadlineNs := by
    rw [hchan, controlDone_deadlineNs]
  rw [hdead, hrem]
  exact ⟨hchan ▸ controlDone_armed s.npt s.now s.tisr k v harmed,
    fun hstopped hoff hkeep => by simp [hstopped, hoff, hkeep],
    fun hstopped hoff hreset => by simp [hstopped, hoff, hreset],
    fun hstopped hon hkeep => by simp [hstopped, hon, hkeep],
    fun hstopped hon hreset => by simp [hstopped, hon, hreset],
    fun hrun hon hkeep => by simp [hrun, hon, hkeep],
    fun hrun hon hreset => by simp [hrun, hon, hreset],
    fun hrun hoff => by simp [hrun, hoff]⟩

/-- Settles O24: the write leaves the latches, and moves the line as `controlDone_registers` says. -/
theorem controlWriteInterruptLine : Obligations.ControlWriteInterruptLine := by
  intro k v s t h
  obtain ⟨-, -, hirq⟩ := controlDone_registers s.npt s.now s.tisr k v (s.chan k)
  rw [exec_wr_tcsr_next h, chan_setChan_self, hirq, anySet_xor_IE]
  refine ⟨fun hkept => ?_, fun htoggled => ?_, rfl⟩
  · simp [hkept]
  · simp [htoggled.symm, irqLevel, latched_eq]

/-! ### The bits a control write does not read -/

theorem storedControl_maskWritten (old v : Word) : storedControl old (maskWritten v) = storedControl old v := by
  have hsub : (0xFC0000FF : Word) &&& 0xF80000FF = 0xF80000FF := by decide
  rw [storedControl, maskWritten_eq, BitVec.and_assoc, hsub, storedControl]

theorem freshDuration_maskWritten (npt : Nat) (reload v : Word) :
    freshDuration npt reload (maskWritten v) = freshDuration npt reload v := by
  have hsub : (0xFC0000FF : Word) &&& 0xFF = 0xFF := by decide
  rw [freshDuration_eq, maskWritten_eq, BitVec.and_assoc, hsub, freshDuration_eq]

/-- A control write reads no reserved and no read-only bit of the written word but for its diagnostics (R141). -/
theorem controlDone_maskWritten (npt : Nat) (now : Int) (tisr : Word) (k : Fin 5) (v : Word) (c : Channel) :
    controlDone npt now tisr k (maskWritten v) c = controlDone npt now tisr k v c := by
  simp [controlDone, controlWritten, storedControl_maskWritten, freshDuration_maskWritten, anySet_xor_IE, irqLevel]

theorem writeDiags_maskWritten (v : Word) : writeDiags (maskWritten v) = [] := by
  simp [writeDiags_eq, maskWritten_eq, BitVec.and_assoc]

theorem emit_nil (s : State) : s.emit [] = s := by
  rw [State.emit, List.append_nil]

theorem disables_maskWritten : Disables k (maskWritten v) s ↔ Disables k v s := by
  rw [Disables, running_maskWritten]

/-- Settles O25: the masked word is enabled and stops where the written one is and does, leaves the same channel, and
emits nothing. -/
theorem reservedAndReadonlyBitsAreIgnored : Obligations.ReservedAndReadonlyBitsAreIgnored := by
  intro k v s
  rw [← maskWritten_eq]
  refine ⟨fun t h => ?_, fun f h => ?_⟩
  · obtain ⟨hnone, hahead, rfl⟩ := exec_wr_tcsr_eq_next_iff.mp h
    refine ⟨_, exec_wr_tcsr_eq_next_iff.mpr ⟨hnone, fun hstop => hahead (disables_maskWritten.mp hstop), rfl⟩, ?_⟩
    rw [writeDiags_maskWritten, emit_nil, controlDone_maskWritten]
    exact ⟨rfl, rfl⟩
  · rw [exec_wr_tcsr, whenNoneDue_eq_fault_iff, writeControl_eq_fault_iff] at h ⊢
    rwa [disables_maskWritten]

end Sys2Proof.Machine
end

section
/-! The reload registers (43_reload_and_counter.md R150, R151): which operations write one, and what a write does to its
channel. -/

namespace Sys2Proof.Machine

variable {s t : State} {i : Instr} {k : Fin 5} {v : Word}

theorem decode_registerRead (r : Reg) : decode (encodeRead (BitVec.ofNat 30 r.offset)) = .ok (.rd r) := by
  rw [← encode_rd, decode_encode_rd]

theorem decode_registerWrite (r : Reg) (v : Word) :
    decode (encodeWrite (BitVec.ofNat 30 r.offset) v) = .ok (.wr r v) := by
  rw [← encode_wr, decode_encode_wr]

theorem exec_rd_ticr_of_noneDue (k : Fin 5) (h : NoneDue s) :
    exec (.rd (.ticr k)) s = .next (s.answer (s.chan k).reload) := by
  rw [exec_rd_ticr, busRead, whenNoneDue_of_noneDue h]

theorem exec_wr_ticr_of_noneDue (k : Fin 5) (v : Word) (h : NoneDue s) :
    exec (.wr (.ticr k) v) s = .next (writeReload k v s) := by
  rw [exec_wr_ticr, whenNoneDue_of_noneDue h]

theorem exec_wr_ticr_next (h : exec (.wr (.ticr k) v) s = .next t) : t = writeReload k v s := by
  rw [exec_wr_ticr] at h
  obtain ⟨-, hwrite⟩ := whenNoneDue_next h
  cases hwrite
  rfl

/-! ### What writes a reload register -/

theorem writeReload_reload_self (k : Fin 5) (v : Word) (s : State) : ((writeReload k v s).chan k).reload = v := by
  rw [writeReload_eq, chan_setChan_self]

theorem onlyChannel_writeReload (k : Fin 5) (v : Word) (s : State) : OnlyChannel k s (writeReload k v s) := by
  rw [writeReload_eq]
  simpa only [emit_nil] using onlyChannel_emit_setChan k s [] _

/-- An expiration takes its duration from the reload register and leaves it (R122). -/
theorem expired_reload (npt : Nat) (now : Int) (c : Channel) : (expired npt now c).reload = c.reload := by
  unfold expired
  split
  · split <;> rfl
  · rfl

theorem expireChannel_reload (j k : Fin 5) (s : State) : ((expireChannel j s).chan k).reload = (s.chan k).reload := by
  by_cases hk : k = j
  · rw [hk, expireChannel_chan_self, expired_reload]
  · rw [expireChannel_chan_of_ne s hk]

/-- Only a write of the register itself and the operations that load every register write a reload register (R150). -/
theorem exec_keeps_reload (h : exec i s = .next t) (hwrite : ∀ v, i ≠ .wr (.ticr k) v) (hreset : i ≠ .reset)
    (hconfigure : i ≠ .configure) (hrestore : ∀ p, i ≠ .restore p) : (t.chan k).reload = (s.chan k).reload := by
  cases exec_effect h with
  | keep hkeep => rw [hkeep.chan k]
  | controlWrite j v =>
    by_cases hk : k = j
    · obtain ⟨-, hreload, -⟩ := controlDone_registers s.npt s.now s.tisr j v (s.chan j)
      rw [hk, chan_setChan_self, hreload]
    · rw [chan_setChan_of_ne _ _ _ _ hk, emit_chan]
  | reloadWrite j v =>
    obtain ⟨hothers, -⟩ := onlyChannel_writeReload j v s
    have hk : k ≠ j := fun hk => hwrite v (by rw [hk])
    rw [hothers k hk]
  | statusWrite v => rw [writeStatus_chan]
  | reset hi => exact (hi.elim hreset hconfigure).elim
  | restore p => exact absurd rfl (hrestore p)
  | advance d => rw [setNow_chan]
  | expire j => exact expireChannel_reload j k s

/-- Settles O16: the read answers the register, which a write of it sets, RESET clears, and nothing else but the
operations that load every register writes. -/
theorem readReload : Obligations.ReadReload := by
  refine ⟨fun k => decode_registerRead (.ticr k), fun k s hnone => exec_rd_ticr_of_noneDue k hnone,
    fun k v s t hwrite hnone => ?_, fun k s t hreset => ?_,
    fun k i s t h hwrite hreset hconfigure hrestore => exec_keeps_reload h hwrite hreset hconfigure hrestore⟩
  · have hstored : (t.chan k).reload = v := by rw [exec_wr_ticr_next hwrite, writeReload_reload_self]
    rw [exec_rd_ticr_of_noneDue k hnone, hstored]
    rfl
  · cases hreset
    rw [exec_rd_ticr_of_noneDue k (noneDue_resetBlock s), resetBlock_chan]
    rfl

/-- Settles O28: the write is `writeReload`, whose duration counts `v` at the channel's own divisor. -/
theorem reloadWrite : Obligations.ReloadWrite := by
  refine ⟨fun k v => decode_registerWrite (.ticr k) v, ?_⟩
  intro k v s hnone fresh
  have hfresh : freshDuration s.npt v (s.chan k).control = fresh := freshDuration_eq _ _ _
  refine ⟨writeReload k v s, exec_wr_ticr_of_noneDue k v hnone, ?_⟩
  have honly := onlyChannel_writeReload k v s
  rw [writeReload_eq, hfresh] at honly ⊢
  rw [chan_setChan_self]
  exact ⟨rfl, rfl, rfl, rfl, fun hrun => by simp [hrun], fun hstopped => by simp [hstopped], honly, rfl⟩

end Sys2Proof.Machine
end

section
/-! The counter registers (43_reload_and_counter.md R153 to R155): the count of the time a channel has left, and the
write that is ignored. -/

namespace Sys2Proof.Machine

variable {s t : State} {k : Fin 5} {v : Word} {npt d : Nat}

/-- A running channel counts the time to its deadline (R153). -/
theorem counterValue_of_running (hrun : running (s.chan k).control = true) :
    counterValue k s = nsToCount s.npt ((s.chan k).deadlineNs - s.now) (prescaleDivisor (s.chan k).control) :=
  if_pos hrun

/-- A stopped channel counts its cached rest (R153). -/
theorem counterValue_of_stopped (hstopped : running (s.chan k).control = false) :
    counterValue k s = nsToCount s.npt (s.chan k).remainingNs (prescaleDivisor (s.chan k).control) :=
  if_neg (by simp [hstopped])

theorem exec_rd_tdr_of_noneDue (k : Fin 5) (h : NoneDue s) :
    exec (.rd (.tdr k)) s = .next (s.answer (counterValue k s)) := by
  rw [exec_rd_tdr, busRead, whenNoneDue_of_noneDue h]

theorem exec_rd_tdr_next (h : exec (.rd (.tdr k)) s = .next t) : NoneDue s ∧ t = s.answer (counterValue k s) := by
  rw [exec_rd_tdr] at h
  obtain ⟨hnone, hanswer⟩ := whenNoneDue_next h
  cases hanswer
  exact ⟨(noneDue_iff s).mpr hnone, rfl⟩

theorem data_of_exec_rd_tdr (h : exec (.rd (.tdr k)) s = .next t) (hdata : t.resp = some (.data v)) :
    v = counterValue k s := by
  obtain ⟨-, rfl⟩ := exec_rd_tdr_next h
  cases hdata
  rfl

/-- While nothing is due, an armed channel has its deadline ahead (R120). -/
theorem now_lt_deadline_of_armed (hnone : NoneDue s) (harmed : (s.chan k).armed = true) :
    s.now < (s.chan k).deadlineNs :=
  not_le.mp fun hle => hnone k ⟨harmed, hle⟩

/-- Settles O17: the time counted is not negative, in the running row because nothing is due. -/
theorem readCounter : Obligations.ReadCounter := by
  intro k s hnone
  rw [exec_rd_tdr_of_noneDue k hnone, ← prescaleDivisor_eq]
  refine ⟨fun harmed hrun => ?_, fun hrest hstopped => ?_⟩
  · have hahead := now_lt_deadline_of_armed hnone harmed
    rw [counterValue_of_running hrun, nsToCount_of_nonneg s.npt (by omega)]
    rfl
  · rw [counterValue_of_stopped hstopped, nsToCount_of_nonneg s.npt hrest]
    rfl

/-- A shorter time has no larger count, where the longer one's fits 32 bits (R103 (e)). -/
theorem nsToCount_mono {a b : Int} (ha : 0 ≤ a) (hab : a ≤ b) (hfit : b.toNat / (npt * d) < 2 ^ 32) :
    (nsToCount npt a d).toNat ≤ (nsToCount npt b d).toNat := by
  lift a to Nat using ha
  lift b to Nat using (Int.natCast_nonneg a).trans hab
  have hquot : a / (npt * d) ≤ b / (npt * d) := Nat.div_le_div_right (Int.ofNat_le.mp hab)
  rw [Int.toNat_natCast] at hfit
  rw [toNat_nsToCount hfit, toNat_nsToCount (hquot.trans_lt hfit)]
  exact hquot

/-- The counter of a running channel does not rise as time passes up to its deadline (R154 (f)). -/
theorem counterValue_setNow_le (hrun : running (s.chan k).control = true)
    (hfit : ((s.chan k).deadlineNs - s.now).toNat / (s.npt * prescaleDivisor (s.chan k).control) < 2 ^ 32)
    (hreach : s.now + d ≤ (s.chan k).deadlineNs) :
    (counterValue k (s.setNow (s.now + d))).toNat ≤ (counterValue k s).toNat := by
  have hrun' : running ((s.setNow (s.now + d)).chan k).control = true := hrun
  rw [counterValue_of_running hrun, counterValue_of_running hrun', setNow_chan, setNow_npt, setNow_now]
  exact nsToCount_mono (by omega) (by omega) hfit

/-- Settles O18: the first read leaves the channel and the time, and the second, since it completes, finds the deadline
still ahead. -/
theorem runningCounterNeverRises : Obligations.RunningCounterNeverRises := by
  intro k s d t v w a b harmed hrun hfit hread hv hadvance hreread hw
  rw [data_of_exec_rd_tdr hread hv, data_of_exec_rd_tdr hreread hw]
  obtain ⟨-, rfl⟩ := exec_rd_tdr_next hread
  obtain rfl := exec_advance_next hadvance
  obtain ⟨hnone, -⟩ := exec_rd_tdr_next hreread
  have hahead := now_lt_deadline_of_armed hnone harmed
  exact counterValue_setNow_le (s := s.answer _) hrun hfit hahead.le

/-- Settles O29: with nothing due the write completes with its diagnostic, whose class is that of A3 (R201). -/
theorem counterWriteIgnored : Obligations.CounterWriteIgnored := by
  refine ⟨rfl, fun k v => decode_registerWrite (.tdr k) v, fun k v s hnone => ?_⟩
  rw [exec_wr_tdr, whenNoneDue_of_noneDue hnone]
  rfl

end Sys2Proof.Machine
end

section
/-! The reads and writes of TISR, WTCR and the unknown offsets (44_shared_registers.md R160 to R166). -/

namespace Sys2Proof.Machine

variable {s t : State} {v : Word}

/-! ### The completed accesses -/

theorem exec_rd_next {r : Reg} (h : exec (.rd r) s = .next t) : t = s.answer (regRead r.offset s) := by
  rw [exec_rd] at h
  obtain ⟨-, hanswer⟩ := whenNoneDue_next h
  cases hanswer
  rfl

theorem exec_rdTisr_of_noneDue (h : NoneDue s) : exec .rdTisr s = .next (s.answer s.tisr) :=
  exec_rd_of_noneDue .tisr h

theorem exec_rdWtcr_of_noneDue (h : NoneDue s) : exec .rdWtcr s = .next (s.answer s.wtcr) :=
  exec_rd_of_noneDue .wtcr h

theorem exec_wrTisr_of_noneDue (v : Word) (h : NoneDue s) : exec (.wrTisr v) s = .next (writeStatus v s) := by
  rw [exec_wrTisr, whenNoneDue_of_noneDue h]

theorem exec_wrTisr_next (h : exec (.wrTisr v) s = .next t) : NoneDue s ∧ t = writeStatus v s := by
  rw [exec_wrTisr] at h
  obtain ⟨hnone, hwrite⟩ := whenNoneDue_next h
  cases hwrite
  exact ⟨(noneDue_iff s).mpr hnone, rfl⟩

theorem exec_wrWtcr_of_noneDue (v : Word) (h : NoneDue s) :
    exec (.wrWtcr v) s = .next ((s.setWtcr v).emit [.unimplemented]) := by
  rw [exec_wrWtcr, whenNoneDue_of_noneDue h]

theorem exec_wrWtcr_next (h : exec (.wrWtcr v) s = .next t) :
    NoneDue s ∧ t = (s.setWtcr v).emit [.unimplemented] := by
  rw [exec_wrWtcr] at h
  obtain ⟨hnone, hwrite⟩ := whenNoneDue_next h
  cases hwrite
  exact ⟨(noneDue_iff s).mpr hnone, rfl⟩

/-! ### WTCR and the unknown offsets -/

/-- Settles O19: with nothing due the read answers at once. -/
theorem readStatus : Obligations.ReadStatus := fun _ hnone => exec_rdTisr_of_noneDue hnone

/-- Settles O20: `0x1C` is WTCR's offset, and nothing is due after RESET, which leaves the default there. -/
theorem readWatchdog : Obligations.ReadWatchdog := by
  refine ⟨decode_registerRead .wtcr, fun s hnone => exec_rdWtcr_of_noneDue hnone, fun s t hreset => ?_⟩
  cases hreset
  exact exec_rdWtcr_of_noneDue (noneDue_resetBlock s)

/-- Settles O32: the stored word and the diagnostic enter no deadline, so nothing is due for the read either. -/
theorem watchdogWrite : Obligations.WatchdogWrite := by
  refine ⟨rfl, fun v => decode_registerWrite .wtcr v, fun v s hnone => exec_wrWtcr_of_noneDue v hnone,
    fun v s t hwrite => ?_⟩
  obtain ⟨hnone, rfl⟩ := exec_wrWtcr_next hwrite
  exact exec_rdWtcr_of_noneDue hnone

/-- Settles O21: no register stands at the offset, so its words are the unknown read, which is below `REGION_SIZE`. -/
theorem readUnknownOffset : Obligations.ReadUnknownOffset := by
  refine ⟨rfl, fun off s halign hlt hnoreg => ⟨?_, fun hnone => exec_rdUnknown_of_lt hnone hlt⟩⟩
  obtain ⟨-, hunknown⟩ := accessDecodesToTheRegisterOfTheMap off halign 0
  obtain ⟨hread, -⟩ := hunknown hnoreg
  exact hread

/-- Settles O33: no register stands at the offset, so its words are the unknown write, which is below `REGION_SIZE`. -/
theorem writeUnknownOffset : Obligations.WriteUnknownOffset := by
  refine ⟨rfl, fun off v s halign hlt hnoreg => ⟨?_, fun hnone => exec_wrUnknown_of_lt v hnone hlt⟩⟩
  obtain ⟨-, hunknown⟩ := accessDecodesToTheRegisterOfTheMap off halign v
  obtain ⟨-, hwrite⟩ := hunknown hnoreg
  exact hwrite

/-! ### Write one to clear -/

/-- Settles O30: the write is `writeStatus`, which recomputes every line from the latches that are left. -/
theorem statusWriteClears : Obligations.StatusWriteClears := by
  intro v s hnone
  refine ⟨writeStatus v s, exec_wrTisr_of_noneDue v hnone, rfl, fun i => ?_, rfl, rfl, ⟨rfl, rfl, rfl⟩, rfl⟩
  rw [writeStatus_chan, irqLevel, latched_clearLatches, latched_eq]

theorem clearLatches_zero (tisr : Word) : clearLatches tisr 0 = tisr := by
  exact BitVec.and_allOnes

theorem clearLatches_self (tisr : Word) : clearLatches tisr tisr = 0 := BitVec.and_not_self tisr

theorem clearLatches_clearLatches (tisr v : Word) : clearLatches (clearLatches tisr v) v = clearLatches tisr v := by
  rw [clearLatches, clearLatches, BitVec.and_assoc, BitVec.and_self]

/-- Writing one bit with 1 clears that latch and leaves the others (R162 (f)). -/
theorem getLsbD_clearLatches_twoPow (tisr : Word) (k : Nat) {n : Nat} (hn : n < 32) :
    (clearLatches tisr (BitVec.ofNat 32 (2 ^ k))).getLsbD n = (tisr.getLsbD n && decide (n ≠ k)) := by
  have hbit : (BitVec.ofNat 32 (2 ^ k)).getLsbD n = decide (n = k) := by
    rw [BitVec.getLsbD_ofNat, Nat.testBit_two_pow, decide_eq_true hn, Bool.true_and]
    exact decide_eq_decide.mpr eq_comm
  rw [clearLatches, BitVec.getLsbD_and, BitVec.getLsbD_not, hbit, decide_eq_true hn, Bool.true_and, decide_not]

/-- A write that clears no latch changes nothing where every line is at its level (R104, decision D1). -/
theorem writeStatus_eq_self (hclear : clearLatches s.tisr v = s.tisr)
    (hlevel : ∀ j, (s.chan j).irq = irqLevel (s.chan j).control s.tisr j) : writeStatus v s = s := by
  refine State.ext_chan (fun j => ?_) hclear rfl rfl rfl rfl rfl rfl
  rw [writeStatus_chan, hclear, ← hlevel]

/-- A second write of the same word finds its latches cleared and the lines at their levels. -/
theorem writeStatus_writeStatus (v : Word) (s : State) : writeStatus v (writeStatus v s) = writeStatus v s :=
  writeStatus_eq_self (clearLatches_clearLatches s.tisr v) fun j => by rw [writeStatus_chan, writeStatus_tisr]

theorem noneDue_writeStatus (v : Word) (h : NoneDue s) : NoneDue (writeStatus v s) := by
  intro j
  rw [writeStatus_chan, writeStatus_now]
  exact h j

/-- Settles O31: each law is one of `clearLatches`, and (a) and (c) also need the lines to be at their levels: by the
invariant, and by the first write. -/
theorem clearLaws : Obligations.ClearLaws := by
  refine ⟨fun s hnone hinv => ?_, fun s t h => ?_, fun v s t h => ?_, fun v s t n h hset => ?_, fun k s t h n hn => ?_⟩
  · obtain ⟨hchan, -⟩ := hinv
    have hlevel (j : Fin 5) : (s.chan j).irq = irqLevel (s.chan j).control s.tisr j := by
      obtain ⟨-, hirq, -⟩ := hchan j
      exact hirq
    rw [exec_wrTisr_of_noneDue 0 hnone, writeStatus_eq_self (clearLatches_zero s.tisr) hlevel]
  all_goals obtain ⟨hnone, rfl⟩ := exec_wrTisr_next h
  · exact clearLatches_self s.tisr
  · rw [exec_wrTisr_of_noneDue v (noneDue_writeStatus v hnone), writeStatus_writeStatus]
  · rw [writeStatus_tisr, clearLatches, BitVec.getLsbD_and, Bool.and_eq_true] at hset
    obtain ⟨hold, -⟩ := hset
    exact hold
  · exact getLsbD_clearLatches_twoPow s.tisr k hn

end Sys2Proof.Machine
end

section
/-! Isolation of the channels (44_shared_registers.md R167): an operation on a channel writes nothing of the others, and
what it writes in its own it takes from there. -/

namespace Sys2Proof.Machine

variable {s t : State} {k j : Fin 5} {v tisr tisr' : Word}

/-- An expiration writes no latch but its own. -/
theorem expireChannel_latch_of_ne (s : State) (h : j ≠ k) :
    (expireChannel k s).tisr.getLsbD j.val = s.tisr.getLsbD j.val := by
  have hbit : k.val ≠ j.val := fun hval => h (Fin.ext hval.symm)
  rw [expireChannel_tisr]
  split
  · rw [getLsbD_setLatch, decide_eq_false hbit, Bool.or_false]
  · rfl

theorem exec_wr_tdr_next (h : exec (.wr (.tdr k) v) s = .next t) : t = s.emit [.readonlyRegister] := by
  rw [exec_wr_tdr] at h
  obtain ⟨-, hignored⟩ := whenNoneDue_next h
  cases hignored
  rfl

/-- An operation that writes one channel alone leaves the other channels, every latch and the watchdog word. -/
theorem isolated_of_onlyChannel (h : OnlyChannel k s t) :
    (∀ j, j ≠ k → t.chan j = s.chan j ∧ t.tisr.getLsbD j.val = s.tisr.getLsbD j.val) ∧ t.wtcr = s.wtcr := by
  obtain ⟨hothers, htisr, hwtcr, -⟩ := h
  exact ⟨fun j hj => ⟨hothers j hj, by rw [htisr]⟩, hwtcr⟩

/-- Settles O53: a write has the frame `OnlyChannel`, a read changes only the answer, and an expiration writes one
channel and one latch. -/
theorem channelOperationsStayInTheirChannel : Obligations.ChannelOperationsStayInTheirChannel := by
  rintro k i s t (⟨v, rfl⟩ | ⟨v, rfl⟩ | ⟨v, rfl⟩ | rfl | rfl | rfl | rfl) h
  · rw [exec_wr_tcsr_next h]
    exact isolated_of_onlyChannel (onlyChannel_emit_setChan k s _ _)
  · rw [exec_wr_ticr_next h]
    exact isolated_of_onlyChannel (onlyChannel_writeReload k v s)
  · rw [exec_wr_tdr_next h]
    exact ⟨fun _ _ => ⟨rfl, rfl⟩, rfl⟩
  iterate 3
    · rw [exec_rd_next h]
      exact ⟨fun _ _ => ⟨rfl, rfl⟩, rfl⟩
  · obtain ⟨-, rfl⟩ := exec_expire_next h
    obtain ⟨hothers, hwtcr, -⟩ := expireChannel_frame k s
    exact ⟨fun j hj => ⟨hothers j hj, expireChannel_latch_of_ne s hj⟩, hwtcr⟩

/-! ### What an operation on a channel depends on -/

/-- A control write reads its own channel's latch of the interrupt-status word, and no other bit (R104, R141). -/
theorem controlDone_congr_latch (npt : Nat) (now : Int) (v : Word) (c : Channel)
    (h : tisr'.getLsbD k.val = tisr.getLsbD k.val) :
    controlDone npt now tisr' k v c = controlDone npt now tisr k v c := by
  have hlevel : irqLevel v tisr' k = irqLevel v tisr k := by rw [irqLevel, latched_eq, h, ← latched_eq, ← irqLevel]
  simp only [controlDone, controlWritten, hlevel]

/-- An expiration leaves its own latch set, or as it was where it is stale (R122, R129). -/
theorem expireChannel_latch_self (k : Fin 5) (s : State) :
    (expireChannel k s).tisr.getLsbD k.val = (running (s.chan k).control || s.tisr.getLsbD k.val) := by
  rw [expireChannel_tisr]
  cases running (s.chan k).control <;> simp [getLsbD_setLatch]

/-- Settles O54: the channel each operation leaves is a function of the channel, its latch, the time and the tick. -/
theorem channelDependsOnItselfAlone : Obligations.ChannelDependsOnItselfAlone := by
  intro k i s s' t t' hop hchan hlatch hnow hcfg h h'
  have hnpt : s'.npt = s.npt := by rw [State.npt, hcfg, State.npt]
  obtain ⟨v, rfl⟩ | ⟨v, rfl⟩ | rfl := hop
  · rw [exec_wr_tcsr_next h, exec_wr_tcsr_next h', chan_setChan_self, chan_setChan_self, hchan, hnow, hnpt]
    exact ⟨controlDone_congr_latch _ _ v _ hlatch, hlatch⟩
  · rw [exec_wr_ticr_next h, exec_wr_ticr_next h', writeReload_tisr, writeReload_tisr, writeReload_eq, writeReload_eq,
      chan_setChan_self, chan_setChan_self, hchan, hnow, hnpt]
    exact ⟨rfl, hlatch⟩
  · obtain ⟨-, rfl⟩ := exec_expire_next h
    obtain ⟨-, rfl⟩ := exec_expire_next h'
    rw [expireChannel_chan_self, expireChannel_chan_self, expireChannel_latch_self, expireChannel_latch_self, hchan,
      hnow, hnpt, hlatch]
    exact ⟨rfl, rfl⟩

end Sys2Proof.Machine
end

section
/-! The host's operations (45_host_operations.md R180 to R185): CONFIGURE, SNAPSHOT and RESTORE. -/

namespace Sys2Proof.Machine

variable {s t : State} {p : Snapshot}

/-! ### CONFIGURE -/

/-- Settles O49: both operations are `resetBlock`, after which every channel is a reset one. -/
theorem configureIsPowerOnReset : Obligations.ConfigureIsPowerOnReset := by
  refine fun s => ⟨(exec_configure s).trans (exec_reset s).symm, resetBlock s, exec_configure s, fun i => ?_⟩
  rw [resetBlock_chan, Channel.reset]

/-! ### SNAPSHOT -/

theorem exec_snapshot_of_noneDue (h : NoneDue s) : exec .snapshot s = .next (s.answerRecord (snapshotOf s)) := by
  rw [exec_snapshot, whenNoneDue_of_noneDue h]

theorem exec_snapshot_next (h : exec .snapshot s = .next t) : t = s.answerRecord (snapshotOf s) := by
  rw [exec_snapshot] at h
  obtain ⟨-, hanswered⟩ := whenNoneDue_next h
  cases hanswered
  rfl

/-- The record that a SNAPSHOT answers is that of the state it was performed in. -/
theorem record_of_exec_snapshot (h : exec .snapshot s = .next t) (hrecord : t.resp = some (.record p)) :
    p = snapshotOf s := by
  rw [exec_snapshot_next h] at hrecord
  cases hrecord
  rfl

/-- Settles O50: the record answered is `snapshotOf`, whose channel records hold the channels' fields. -/
theorem snapshotAnswersTheState : Obligations.SnapshotAnswersTheState := fun s hnone =>
  ⟨snapshotOf s, exec_snapshot_of_noneDue hnone, fun i => snapshotOf_ch s i, rfl, rfl⟩

/-! ### RESTORE -/

theorem exec_restore_of_valid (h : validSnapshot s.npt p = true) : exec (.restore p) s = .next (loadSnapshot p s) := by
  rw [exec_restore, if_pos h]

theorem exec_restore_of_not_valid (h : ¬validSnapshot s.npt p = true) :
    exec (.restore p) s = .refused .invalidSnapshot := by
  rw [exec_restore, if_neg h]

theorem maxDuration_eq (npt : Nat) : maxDuration npt = 4294967295 * npt * 256 := by
  simp [maxDuration]

/-- The bits that `valid` wants clear in a control register, as one word (R184). -/
theorem readZero_mask : maskRSVD ||| maskCRST ||| maskCACT = 0x07FFFF00 := by decide

/-- `valid(snap)` with its masks and its longest duration written out (R184). -/
theorem validSnapshot_iff_literal (npt : Nat) (p : Snapshot) :
    validSnapshot npt p = true ↔
      (∀ i : Fin 5, p.ch[i].control &&& 0x07FFFF00 = 0 ∧ p.ch[i].armed = running p.ch[i].control
        ∧ 0 ≤ p.ch[i].remainingNs ∧ p.ch[i].remainingNs ≤ 4294967295 * npt * 256)
      ∧ p.interruptStatus &&& 0xFFFFFFE0 = 0 := by
  simp only [validSnapshot_iff, validChannel_iff, readZero_mask, maxDuration_eq]

theorem irqLevel_eq (control tisr : Word) (i : Fin 5) :
    irqLevel control tisr i = (anySet control maskIE && tisr.getLsbD i.val) := by
  rw [irqLevel, latched_eq]

/-- Settles O51: the record is loaded or refused as `validSnapshot` says, and loading drives each line to its level. -/
theorem restoreLoadsValidRecords : Obligations.RestoreLoadsValidRecords := by
  intro p s valid
  have hiff : validSnapshot s.npt p = true ↔ valid := validSnapshot_iff_literal s.npt p
  refine ⟨fun hvalid => ⟨loadSnapshot p s, exec_restore_of_valid (hiff.mpr hvalid), fun i => ?_, rfl, rfl, rfl,
    ⟨rfl, rfl, rfl⟩, rfl⟩, fun hnot => exec_restore_of_not_valid (mt hiff.mp hnot)⟩
  rw [loadSnapshot_chan, irqLevel_eq]

/-! ### The round trip -/

/-- A state with the invariants and its durations in range has a valid record: `valid` asks nothing else (R184). -/
theorem validSnapshot_snapshotOf (hinv : BlockInv s) (hmax : ∀ i, (s.chan i).remainingNs ≤ maxDuration s.npt) :
    validSnapshot s.npt (snapshotOf s) = true := by
  obtain ⟨hch, hhigh⟩ := hinv
  refine (validSnapshot_iff _ _).mpr ⟨fun i => ?_, hhigh⟩
  obtain ⟨harmed, -, hzero, hrem⟩ := hch i
  rw [snapshotOf_ch]
  exact (validChannel_iff _ _).mpr ⟨hzero, harmed, hrem, hmax i⟩

/-- Loading a state's record gives its channels again, the lines too: a line is no part of the record, but the
invariants hold it at the level that the load recomputes. -/
theorem loadSnapshot_snapshotOf_chan (hinv : BlockInv s) (u : State) (i : Fin 5) :
    (loadSnapshot (snapshotOf s) u).chan i = s.chan i := by
  obtain ⟨hch, -⟩ := hinv
  obtain ⟨-, hline, -, -⟩ := hch i
  calc (loadSnapshot (snapshotOf s) u).chan i
      = { s.chan i with irq := irqLevel (s.chan i).control s.tisr i } := by
        rw [loadSnapshot_chan, snapshotOf_ch]; rfl
    _ = s.chan i := by rw [← hline]

/-- Settles O52: the record answered is valid, also at the other state's equal tick, and loading it gives every channel
again; latches and watchdog word are in the record, and `now` is equal by hypothesis. -/
theorem snapshotRoundTrip : Obligations.SnapshotRoundTrip := by
  intro s a p u hinv hmax hsnapshot hrecord hnow hcfg
  obtain rfl := record_of_exec_snapshot hsnapshot hrecord
  have htick : u.npt = s.npt := by rw [State.npt, hcfg, State.npt]
  have hvalid : validSnapshot u.npt (snapshotOf s) = true := htick ▸ validSnapshot_snapshotOf hinv hmax
  exact ⟨loadSnapshot (snapshotOf s) u, exec_restore_of_valid hvalid, loadSnapshot_snapshotOf_chan hinv u, rfl, rfl,
    hnow⟩

end Sys2Proof.Machine
end

section
/-! Diagnostics (60_exceptions.md R201 to R203): which causes a completing operation appends to the list, in which order
and of which class. -/

namespace Sys2Proof.Machine

variable {s t : State} {i : Instr} {c : Cause} {ds : List Cause}

/-- What a completing operation may emit: nothing, or its own row of R201's table (A1 to A6). -/
inductive Emits : Instr → List Cause → Prop
  | nothing (i : Instr) : Emits i []
  | controlWrite (k v) : Emits (.wr (.tcsr k) v) (writeDiags v)
  | counterWrite (k v) : Emits (.wr (.tdr k) v) [.readonlyRegister]
  | unknownRead (off) : Emits (.rdUnknown off) [.unknownOffsetRead]
  | unknownWrite (off v) : Emits (.wrUnknown off v) [.unknownOffsetWrite]
  | watchdogWrite (v) : Emits (.wrWtcr v) [.unimplemented]

theorem writeReload_diags (k : Fin 5) (v : Word) (s : State) : (writeReload k v s).diags = s.diags := by
  rw [writeReload_eq, setChan_diags]

theorem exists_emits_of_diags_eq (h : t.diags = s.diags) : ∃ ds, t.diags = s.diags ++ ds ∧ Emits i ds :=
  ⟨[], by rw [h, List.append_nil], .nothing i⟩

/-- A completing operation appends what R201's table gives it, and leaves the diagnostics before it (log entry 6). -/
theorem exec_emits (h : exec i s = .next t) : ∃ ds, t.diags = s.diags ++ ds ∧ Emits i ds := by
  obtain ⟨r, v, rfl, -, rfl⟩ | ⟨k, v, rfl, -, -, rfl⟩ | ⟨k, v, rfl, -, rfl⟩ | ⟨k, v, rfl, -, rfl⟩ |
    ⟨v, rfl, -, rfl⟩ | ⟨v, rfl, -, rfl⟩ | ⟨off, rfl, -, rfl⟩ | ⟨off, v, rfl, -, rfl⟩ | ⟨rfl, rfl⟩ | ⟨rfl, rfl⟩ |
    ⟨rfl, -, rfl⟩ | ⟨p, rfl, -, rfl⟩ | ⟨d, rfl, -, -, -, rfl⟩ | ⟨k, rfl, -, rfl⟩ := exec_next_cases h
  · exact exists_emits_of_diags_eq rfl
  · exact ⟨writeDiags v, rfl, .controlWrite k v⟩
  · exact exists_emits_of_diags_eq (writeReload_diags k v s)
  · exact ⟨_, rfl, .counterWrite k v⟩
  · exact exists_emits_of_diags_eq rfl
  · exact ⟨_, rfl, .watchdogWrite v⟩
  · exact ⟨_, rfl, .unknownRead off⟩
  · exact ⟨_, rfl, .unknownWrite off v⟩
  · exact exists_emits_of_diags_eq (resetBlock_diags s)
  · exact exists_emits_of_diags_eq (resetBlock_diags s)
  · exact exists_emits_of_diags_eq rfl
  · exact exists_emits_of_diags_eq (loadSnapshot_diags p s)
  · exact exists_emits_of_diags_eq rfl
  · obtain ⟨-, -, -, -, hdiags⟩ := expireChannel_frame k s
    exact exists_emits_of_diags_eq hdiags

/-! ### The count and the order -/

/-- The two maskings of a control write give each at most one diagnostic, the reserved bits' first (R203). -/
theorem writeDiags_length_le_one_or (v : Word) :
    (writeDiags v).length ≤ 1 ∨ writeDiags v = [.reservedBits, .readonlyBit] := by
  cases hrsvd : anySet v maskRSVD <;> cases hcact : anySet v maskCACT <;> simp [writeDiags, hrsvd, hcact]

theorem Emits.length_le_one_or (h : Emits i ds) :
    ds.length ≤ 1 ∨ ∃ k v, i = .wr (.tcsr k) v ∧ ds = [.reservedBits, .readonlyBit] := by
  cases h with
  | controlWrite k v => exact (writeDiags_length_le_one_or v).imp_right fun htwo => ⟨k, v, rfl, htwo⟩
  | nothing => exact .inl (Nat.zero_le 1)
  | counterWrite | unknownRead | unknownWrite | watchdogWrite => exact .inl le_rfl

/-! ### The classes -/

theorem causeClass_of_mem_writeDiags {v : Word} (h : c ∈ writeDiags v) : causeClass c = .guestError := by
  obtain hreserved | hreadonly := List.mem_append.mp h
  · obtain ⟨-, hmem⟩ := List.mem_ite_nil_right.mp hreserved
    exact List.mem_singleton.mp hmem ▸ rfl
  · obtain ⟨-, hmem⟩ := List.mem_ite_nil_right.mp hreadonly
    exact List.mem_singleton.mp hmem ▸ rfl

/-- A write of another register is no `WR WTCR`. -/
theorem wr_ne_wrWtcr {r : Reg} (v w : Word) (h : r ≠ .wtcr) : Instr.wr r v ≠ .wrWtcr w := by
  cases r with
  | tisr => nofun
  | wtcr => exact absurd rfl h
  | tcsr k | ticr k | tdr k => match k with | 0 | 1 | 2 | 3 | 4 => nofun

/-- Every cause but that of `WR WTCR` is of the class GUEST_ERROR (R201). -/
theorem Emits.causeClass_cases (h : Emits i ds) (hc : c ∈ ds) :
    ((∃ v, i = .wrWtcr v) ∧ causeClass c = .unimplemented) ∨
      ((∀ v, i ≠ .wrWtcr v) ∧ causeClass c = .guestError) := by
  cases h with
  | nothing => cases hc
  | controlWrite k v => exact .inr ⟨fun w => wr_ne_wrWtcr v w nofun, causeClass_of_mem_writeDiags hc⟩
  | counterWrite k v => exact .inr ⟨fun w => wr_ne_wrWtcr v w nofun, List.mem_singleton.mp hc ▸ rfl⟩
  | unknownRead | unknownWrite => exact .inr ⟨nofun, List.mem_singleton.mp hc ▸ rfl⟩
  | watchdogWrite v => exact .inl ⟨⟨v, rfl⟩, List.mem_singleton.mp hc ▸ rfl⟩

/-- Settles O26: the operation appends its row of R201's table, which has the count and the classes. -/
theorem diagnosticsOfOneOperation : Obligations.DiagnosticsOfOneOperation := by
  intro i s t h
  obtain ⟨ds, hdiags, hemits⟩ := exec_emits h
  refine ⟨ds, hdiags, hemits.length_le_one_or, fun c hc => ?_⟩
  obtain ⟨⟨v, hwtcr⟩, hclass⟩ | ⟨hother, hclass⟩ := hemits.causeClass_cases hc
  · exact ⟨fun _ => hclass, fun hother => absurd hwtcr (hother v)⟩
  · exact ⟨fun ⟨v, hwtcr⟩ => absurd hwtcr (hother v), fun _ => hclass⟩

end Sys2Proof.Machine
end

section
/-! RESET and the programmed delay (70_reset_and_hazards.md R250 to R252): RESET leaves one block state whatever it
finds, and a channel that is prescaled, loaded and enabled in that order runs for exactly its count. -/

namespace Sys2Proof.Machine

variable {s t : State} {k : Fin 5} {v count : Word}

/-! ### RESET -/

/-- RESET keeps of the state only what it does not write, so a second one finds nothing to change (R251). -/
theorem resetBlock_resetBlock (s : State) : resetBlock (resetBlock s) = resetBlock s := rfl

/-- Settles O48: RESET is `resetBlock`, after which every channel is a reset one, so no callback is pending. -/
theorem resetRestoresDefaults : Obligations.ResetRestoresDefaults := by
  intro s
  refine ⟨resetBlock s, exec_reset s, fun i => ?_, resetBlock_tisr s, resetBlock_wtcr s, resetBlock_now s,
    ⟨resetBlock_cfg s, resetBlock_inputs s, resetBlock_resp s⟩, resetBlock_diags s, noneDue_resetBlock s, ?_⟩
  · rw [resetBlock_chan, Channel.reset]
  · rw [exec_reset, resetBlock_resetBlock]

/-! ### A word with count-enable added -/

theorem running_or_CEN (v : Word) : running (v ||| maskCEN) = true := by
  rw [running_eq, BitVec.getLsbD_or, show maskCEN.getLsbD 30 = true by decide, Bool.or_true]

theorem anySet_or_CEN_CRST (v : Word) : anySet (v ||| maskCEN) maskCRST = anySet v maskCRST := by
  rw [anySet_CRST, BitVec.getLsbD_or, show maskCEN.getLsbD 26 = false by decide, Bool.or_false, ← anySet_CRST]

theorem prescaleDivisor_or_CEN (v : Word) : prescaleDivisor (v ||| maskCEN) = prescaleDivisor v := by
  have hlow : maskCEN.extractLsb' 0 8 = 0#8 := by decide
  rw [prescaleDivisor, BitVec.extractLsb'_or, hlow, BitVec.or_zero, prescaleDivisor]

/-! ### The three writes -/

/-- What a control write leaves for the writes after it: its control register, the time and the tick. -/
theorem control_of_exec_wr_tcsr (h : exec (.wr (.tcsr k) v) s = .next t) :
    (t.chan k).control = storedControl (s.chan k).control v ∧ t.now = s.now ∧ t.npt = s.npt := by
  obtain ⟨hcontrol, -, -⟩ := controlDone_registers s.npt s.now s.tisr k v (s.chan k)
  rw [exec_wr_tcsr_next h, chan_setChan_self, hcontrol]
  exact ⟨rfl, rfl, rfl⟩

theorem writeReload_npt (k : Fin 5) (v : Word) (s : State) : (writeReload k v s).npt = s.npt := by
  rw [State.npt, writeReload_cfg, State.npt]

theorem writeReload_control_self (k : Fin 5) (v : Word) (s : State) :
    ((writeReload k v s).chan k).control = (s.chan k).control := by
  rw [writeReload_eq, chan_setChan_self]

/-- A reload write gives its channel the duration of the count at the channel's own divisor (R151). -/
theorem writeReload_remainingNs_self (k : Fin 5) (v : Word) (s : State) :
    ((writeReload k v s).chan k).remainingNs = countToNs s.npt v (prescaleDivisor (s.chan k).control) := by
  rw [writeReload_eq, chan_setChan_self, freshDuration]

/-- A running channel with the whole duration of a count ahead of it counts that count (R103 (c), R153). -/
theorem counterValue_of_full_duration (hrun : running (s.chan k).control = true)
    (hleft : (s.chan k).deadlineNs - s.now = countToNs s.npt count (prescaleDivisor (s.chan k).control)) :
    counterValue k s = count := by
  have htick : 1 ≤ s.npt := (nsPerTick_bounds s.cfg).left
  obtain ⟨hdivisor, -⟩ := prescaleDivisor_bounds (s.chan k).control
  rw [counterValue_of_running hrun, hleft, nsToCount_countToNs count (Nat.mul_pos htick hdivisor)]

/-- Settles O46: the first write sets the divisor of a stopped channel, the second its duration at that divisor, and the
third starts it with that duration and the same divisor, all at one time; so the read counts the whole duration. -/
theorem programmedDelayIsExact : Obligations.ProgrammedDelayIsExact := by
  intro k v count s a b c _ hoff hcrst hprescale hreload henable
  obtain rfl := exec_wr_ticr_next hreload
  obtain ⟨hcontrolA, hnowA, hnptA⟩ := control_of_exec_wr_tcsr hprescale
  obtain ⟨hcontrolC, hnowC, hnptC⟩ := control_of_exec_wr_tcsr henable
  rw [writeReload_now, hnowA] at hnowC
  rw [writeReload_npt, hnptA] at hnptC
  have hstopped : running ((writeReload k count a).chan k).control = false := by
    rw [writeReload_control_self, hcontrolA, running_storedControl, hoff]
  have hrest : ((writeReload k count a).chan k).remainingNs = countToNs s.npt count (prescaleDivisor v) := by
    rw [writeReload_remainingNs_self, hnptA, hcontrolA, prescaleDivisor_stored]
  have hrun : running (c.chan k).control = true := by rw [hcontrolC, running_storedControl, running_or_CEN]
  have hdivisor : prescaleDivisor (c.chan k).control = prescaleDivisor v := by
    rw [hcontrolC, prescaleDivisor_stored, prescaleDivisor_or_CEN]
  obtain ⟨harmed, hleft⟩ :=
    rest_of_resume hstopped (running_or_CEN v) ((anySet_or_CEN_CRST v).trans hcrst) henable
  rw [hrest] at hleft
  refine ⟨harmed, ?_, fun t hread => ?_⟩
  · rw [← hnowC, ← hleft, add_sub_cancel]
  · have hcount : counterValue k c = count := counterValue_of_full_duration hrun (by rw [hleft, hnptC, hdivisor])
    obtain ⟨-, rfl⟩ := exec_rd_tdr_next hread
    rw [answer_resp, hcount]

end Sys2Proof.Machine
end
